-- ==== Sys2Proof/Word.lean ====
section
/-! DEFINITION. The words of population_count_engine: `00_scope.md` R5 (bit 0 is the least significant). -/

namespace Sys2Proof

/-- A 64-bit word (`00_scope.md` R4, parameter `W`; R5). -/
abbrev Word := BitVec 64

/-- One table entry, 8 bits wide (`00_scope.md` R4, parameters `T8_W` and `T16_W`). -/
abbrev Entry := BitVec 8

/-- A command packet, 68 bits: the command code above the operand (`30_encoding.md` R60). -/
abbrev Packet := BitVec 68

/-- A command code, 4 bits (`00_scope.md` R4, parameter `CMD_W`). -/
abbrev Code := BitVec 4

/-- A population count before extension, 7 bits (`00_scope.md` R4, parameter `COUNT_W`). -/
abbrev Count := BitVec 7

end Sys2Proof
end

