-- ==== Sys2Proof/Syntax.lean ====
section
/-! DEFINITION. The command set: one constructor per row of spec/opcode_table.json (`30_encoding.md` R63). -/

namespace Sys2Proof

/-- The seven commands. Each carries its one operand, `OPERAND[63:0]` taken as it stands (`30_encoding.md` R62). -/
inductive Instr where
  /-- POPCNT.ITER, code 0 (`40_popcount_iterative.md` R83). -/
  | popcntIter (w : Word)
  /-- POPCNT.SPARSE, code 1 (`40_popcount_iterative.md` R85). -/
  | popcntSparse (w : Word)
  /-- POPCNT.DENSE, code 2 (`40_popcount_iterative.md` R87). -/
  | popcntDense (w : Word)
  /-- POPCNT.BYTETAB, code 3 (`41_popcount_table.md` R102). -/
  | popcntBytetab (w : Word)
  /-- POPCNT.HALFTAB, code 4 (`41_popcount_table.md` R104). -/
  | popcntHalftab (w : Word)
  /-- POPCNT.FOLD, code 5 (`42_popcount_folding.md` R123). -/
  | popcntFold (w : Word)
  /-- REVBITS, code 8 (`43_bit_reversal.md` R132). -/
  | revbits (w : Word)
deriving DecidableEq, Repr

/-- The operand of a command (`30_encoding.md` R62). -/
def Instr.operand (i : Instr) : Word :=
  match i with
  | .popcntIter w => w
  | .popcntSparse w => w
  | .popcntDense w => w
  | .popcntBytetab w => w
  | .popcntHalftab w => w
  | .popcntFold w => w
  | .revbits w => w

end Sys2Proof
end

