-- ==== Sys2Proof/WellFormed.lean ====
section
/-! DEFINITION. What is well formed. Every 64-bit operand is well formed for every legal code (`30_encoding.md` R62),
so every term of `Instr` is; the one thing that can be ill formed is a command code (R64). -/

namespace Sys2Proof

/-- The check on a command code: the seven codes of the opcode map are legal (`30_encoding.md` R63); the nine codes
6, 7, 9 to 15 are reserved (R64). -/
def legalCode (c : Code) : Bool :=
  c.toNat < 6 || c.toNat == 8

/-- The check on a packet: its code, bits 67 to 64, is legal; its operand may be anything (`30_encoding.md` R62, R64). -/
def Packet.wellFormed (p : Packet) : Bool :=
  legalCode (p.extractLsb' 64 4)

/-- Every command is well formed, whatever its operand (`30_encoding.md` R62). -/
def Instr.wellFormed (i : Instr) : Bool :=
  match i with
  | .popcntIter _ => true
  | .popcntSparse _ => true
  | .popcntDense _ => true
  | .popcntBytetab _ => true
  | .popcntHalftab _ => true
  | .popcntFold _ => true
  | .revbits _ => true

end Sys2Proof
end

