-- ==== Sys2Proof/Decode.lean ====
section
/-! DEFINITION. Decoding, total on 68-bit packets, and encoding (`30_encoding.md` R60 to R64, R69). -/

namespace Sys2Proof

/-- What a packet decodes to: a legal command, or `(ILLEGAL code, w)` (`30_encoding.md` R69). -/
inductive Decoded where
  /-- One of the seven commands. -/
  | legal (i : Instr)
  /-- A reserved code with its operand; the command step raises IllegalCommand (`60_exceptions.md` R161). -/
  | illegal (code : Code) (w : Word)
deriving DecidableEq, Repr

/-- `CMD`, bits 67 to 64 of a packet (`30_encoding.md` R60). -/
def packetCode (p : Packet) : Code := p.extractLsb' 64 4

/-- `OPERAND`, bits 63 to 0 of a packet (`30_encoding.md` R60). -/
def packetOperand (p : Packet) : Word := p.extractLsb' 0 64

/-- `FN = CMD[3]`: 0 is populationCount, 1 is reverseBits (`30_encoding.md` R61). -/
def codeFn (c : Code) : BitVec 1 := c.extractLsb' 3 1

/-- `STRAT = CMD[2:0]` (`30_encoding.md` R61). -/
def codeStrat (c : Code) : BitVec 3 := c.extractLsb' 0 3

/-- The packet `{CMD, OPERAND}` (`30_encoding.md` R60). -/
def mkPacket (c : Code) (w : Word) : Packet := c ++ w

/-- Decoding, in the order of `30_encoding.md` R69. -/
def decode (p : Packet) : Decoded :=
  if packetCode p = 0b0000#4 then .legal (.popcntIter (packetOperand p))
  else if packetCode p = 0b0001#4 then .legal (.popcntSparse (packetOperand p))
  else if packetCode p = 0b0010#4 then .legal (.popcntDense (packetOperand p))
  else if packetCode p = 0b0011#4 then .legal (.popcntBytetab (packetOperand p))
  else if packetCode p = 0b0100#4 then .legal (.popcntHalftab (packetOperand p))
  else if packetCode p = 0b0101#4 then .legal (.popcntFold (packetOperand p))
  else if packetCode p = 0b1000#4 then .legal (.revbits (packetOperand p))
  else .illegal (packetCode p) (packetOperand p)

/-- The instruction of a legal packet; nothing for a reserved code. -/
def decodeInstr (p : Packet) : Option Instr :=
  match decode p with
  | .legal i => some i
  | .illegal _ _ => none

/-- The command code of each command (`30_encoding.md` R63). -/
def Instr.code (i : Instr) : Code :=
  match i with
  | .popcntIter _ => 0b0000#4
  | .popcntSparse _ => 0b0001#4
  | .popcntDense _ => 0b0010#4
  | .popcntBytetab _ => 0b0011#4
  | .popcntHalftab _ => 0b0100#4
  | .popcntFold _ => 0b0101#4
  | .revbits _ => 0b1000#4

/-- `encode(mnemonic, w) = {code, w}` (`30_encoding.md` R69). -/
def encode (i : Instr) : Packet := mkPacket i.code i.operand

/-- The `match` column of the opcode map (`30_encoding.md` R63), seventeen hexadecimal digits. -/
def Instr.rowMatch (i : Instr) : Packet :=
  match i with
  | .popcntIter _ => 0x00000000000000000#68
  | .popcntSparse _ => 0x10000000000000000#68
  | .popcntDense _ => 0x20000000000000000#68
  | .popcntBytetab _ => 0x30000000000000000#68
  | .popcntHalftab _ => 0x40000000000000000#68
  | .popcntFold _ => 0x50000000000000000#68
  | .revbits _ => 0x80000000000000000#68

/-- The `mask` column of the opcode map, the same in every row (`30_encoding.md` R63). -/
def rowMask : Packet := 0xF0000000000000000#68

/-- The packet whose bits are the low `nbits` bits of `w`, numbered as spec/opcode_table.json numbers them; nothing
where a bit above bit 67 is set, since a packet has 68 bits (`30_encoding.md` R60; log entry 10). -/
def tablePacket (nbits w : Nat) : Option Packet :=
  if w % 2 ^ nbits < 2 ^ 68 then some (BitVec.ofNat 68 (w % 2 ^ nbits)) else none

/-- The instruction the decoder reads from a word of the opcode table. -/
def decodeTableWord (nbits w : Nat) : Option Instr :=
  match tablePacket nbits w with
  | some p => decodeInstr p
  | none => none

end Sys2Proof
end

