-- ==== Sys2Proof/Config.lean ====
section
/-! DEFINITION. The parameters of the block (`00_scope.md` R4) that a rule reads. Widths stand in Word.lean as types. -/

namespace Sys2Proof

/-- `STRICT_DOMAIN`: whether POPCNT.ITER, SPARSE and DENSE fault on an operand that is not strictly positive.
The value of this hardware is `true` (`00_scope.md` R4, `92_eei_decisions.md` D1). The meanings of the three commands
take the parameter as an argument and are instantiated here, so a claim may quantify over both readings (U2). -/
def Config.strictDomain : Bool := true

/-- `T8_ENTRIES`: the entries of the 8-bit table (`00_scope.md` R4). -/
abbrev Config.t8Entries : Nat := 256

/-- `T16_ENTRIES`: the entries of the 16-bit table (`00_scope.md` R4). -/
abbrev Config.t16Entries : Nat := 65536

/-- How many writes the initialiser makes in all: 256 + 65,536 = 65,792 (`70_reset_and_hazards.md` R192). -/
abbrev Config.initWrites : Nat := 65792

/-- The most iterations a data-dependent loop of a command can take: 64 (`40_popcount_iterative.md` R89,
`70_reset_and_hazards.md` R198). The loops are written with this bound (log entry 9). -/
abbrev Config.loopBound : Nat := 64

/-- `NLANE8`: the lanes of the byte-table strategy, low to high (`00_scope.md` R4, `41_popcount_table.md` R101). -/
abbrev Config.byteLaneOrder : List Nat := [0, 1, 2, 3, 4, 5, 6, 7]

/-- `NLANE16`: the lanes of the halfword-table strategy, low to high (`00_scope.md` R4, `41_popcount_table.md` R103). -/
abbrev Config.halfLaneOrder : List Nat := [0, 1, 2, 3]

/-- `NROUND`: the six folding rounds, in ascending order (`42_popcount_folding.md` R122). -/
abbrev Config.roundOrder : List (Fin 6) := [0, 1, 2, 3, 4, 5]

/-- `NSTAGE`: the six swap stages, in the order of widths 32, 16, 8, 4, 2, 1 (`43_bit_reversal.md` R131, decision D10). -/
abbrev Config.stageOrder : List (Fin 6) := [5, 4, 3, 2, 1, 0]

end Sys2Proof
end

