-- ==== Sys2Proof/Machine/Masks.lean ====
section
/-! DEFINITION. The mask constants shared by folding and bit reversal (`42_popcount_folding.md` R120). -/

namespace Sys2Proof.Machine

/-- `LOW_k`: the positions in even-numbered groups of width 2^k (`42_popcount_folding.md` R120). -/
def lowMask : Fin 6 → Word
  | 0 => 0x5555555555555555#64
  | 1 => 0x3333333333333333#64
  | 2 => 0x0F0F0F0F0F0F0F0F#64
  | 3 => 0x00FF00FF00FF00FF#64
  | 4 => 0x0000FFFF0000FFFF#64
  | 5 => 0x00000000FFFFFFFF#64

/-- `HIGH_k = ~LOW_k`: the positions in odd-numbered groups of width 2^k (`42_popcount_folding.md` R120). -/
def highMask : Fin 6 → Word
  | 0 => 0xAAAAAAAAAAAAAAAA#64
  | 1 => 0xCCCCCCCCCCCCCCCC#64
  | 2 => 0xF0F0F0F0F0F0F0F0#64
  | 3 => 0xFF00FF00FF00FF00#64
  | 4 => 0xFFFF0000FFFF0000#64
  | 5 => 0xFFFFFFFF00000000#64

/-- The group width 2^k (`42_popcount_folding.md` R120). -/
def groupWidth (k : Fin 6) : Nat := 2 ^ k.val

end Sys2Proof.Machine
end

