-- ==== Sys2Proof/Machine/Flags.lean ====
section
/-! DEFINITION. The engine has no flags (`10_state.md` R32). The only sign and zero tests it makes are those of the
domain guard on its operand (`00_scope.md` R8, `40_popcount_iterative.md` R81), and they stand here. -/

namespace Sys2Proof.Machine

/-- A word is non-positive exactly when it is zero or its bit 63 is set (`00_scope.md` R8). -/
def nonPositive (w : Word) : Bool := w == 0 || w.getLsbD 63

/-- The condition of the guard: `STRICT_DOMAIN and (w = 0 or w[63] = 1)` (`40_popcount_iterative.md` R81). -/
def outsideDomain (strict : Bool) (w : Word) : Bool := strict && nonPositive w

end Sys2Proof.Machine
end

