-- ==== Sys2Proof/Machine/Operands.lean ====
section
/-! DEFINITION. The operand of a command and the slices a command takes of it (`30_encoding.md` R62, `20_memory.md` R41). -/

namespace Sys2Proof.Machine

/-- `w[0]` as a 7-bit number: the bit the Iterated strategy accumulates (`40_popcount_iterative.md` R82). -/
def lowBit (w : Word) : Count := (w.extractLsb' 0 1).setWidth 7

/-- Byte lane j, `w[8j+7 : 8j]` (`20_memory.md` R41). -/
def byteLane (w : Word) (j : Nat) : BitVec 8 := w.extractLsb' (8 * j) 8

/-- Halfword lane j, `w[16j+15 : 16j]` (`20_memory.md` R41). -/
def halfLane (w : Word) (j : Nat) : BitVec 16 := w.extractLsb' (16 * j) 16

/-- The indices POPCNT.BYTETAB reads, low lane first (`41_popcount_table.md` R101). -/
def byteIndices (w : Word) : List Nat := Config.byteLaneOrder.map fun j => (byteLane w j).toNat

/-- The indices POPCNT.HALFTAB reads, low lane first (`41_popcount_table.md` R103). -/
def halfIndices (w : Word) : List Nat := Config.halfLaneOrder.map fun j => (halfLane w j).toNat

/-- `zext_64(N)`: a count as a response (`30_encoding.md` R65). -/
def zext64 (n : Count) : Word := n.setWidth 64

end Sys2Proof.Machine
end

