-- ==== Sys2Proof/Machine/State.lean ====
section
/-! DEFINITION. The state of the engine, its stops, and the state after reset (`10_state.md` R20 to R34). -/

namespace Sys2Proof.Machine

/-- `MODE`, the phase of the engine. Value 3 is never held, so the type has three values (`10_state.md` R21;
`93_implementation_defined.md` U9; log entry 14). -/
inductive Mode where
  /-- 0: reset has happened, the tables are not finished. -/
  | init
  /-- 1: both tables are complete, commands are accepted. -/
  | ready
  /-- 2: a command raised a fault, nothing is accepted until reset. -/
  | faulted
deriving DecidableEq, Repr

/-- `CAUSE`, the fault that stopped the engine. Value 3 is never held (`10_state.md` R22; U9; log entry 14). -/
inductive Cause where
  /-- 0: no fault since reset. -/
  | none
  /-- 1: a reserved command code. -/
  | illegalCommand
  /-- 2: a non-positive operand of an iterative command. -/
  | domainViolation
deriving DecidableEq, Repr

/-- A table: its written entries as (index, entry) pairs, indices strictly rising. An index that is not listed has
no value (`10_state.md` R34; `93_implementation_defined.md` U5; log entry 4). -/
abbrev Memory := List Host.Cell

/-- Why `exec` stops without a next state. Both are safe, and `step` raises neither from any state: it gives an engine
that is not READY no command (log entry 7). -/
inductive Fault where
  /-- Raised by every meaning in INIT: the command is held, not accepted (`30_encoding.md` R70; U6). Safe. -/
  | heldInInit
  /-- Raised by every meaning in FAULTED: the command is held until reset (`60_exceptions.md` R169; U7). Safe. -/
  | heldInFaulted
deriving DecidableEq, Repr

/-- Why a command has no meaning in a state. -/
inductive Refusal where
  /-- Raised by an arm of `exec` whose instruction has no meaning in the model; no arm does. Safe. -/
  | notModelled (mnemonic : String)
  /-- Raised by POPCNT.BYTETAB and POPCNT.HALFTAB on a table entry that has no value (`10_state.md` R28,
  `70_reset_and_hazards.md` R195; `93_implementation_defined.md` U5: refuse). No state of a run meets it. Safe. -/
  | unwrittenTableEntry
deriving DecidableEq, Repr

/-- The state: the tuple of `10_state.md` R20, the initialiser's progress (R33 d), and the host's side of the ports
(`60_exceptions.md` R173; log entry 1). -/
structure State where
  /-- `MODE` (`10_state.md` R21). -/
  mode : Mode
  /-- `CAUSE` (`10_state.md` R22). -/
  cause : Cause
  /-- `FCMD`, the code of the faulting command (`10_state.md` R23). -/
  fcmd : Code
  /-- `FWORD`, the operand of the faulting command (`10_state.md` R24). -/
  fword : Word
  /-- `TABLE8` (`10_state.md` R26). -/
  table8 : Memory
  /-- `TABLE16` (`10_state.md` R27). -/
  table16 : Memory
  /-- How many table entries the initialiser has written since reset (`10_state.md` R33 d; log entry 3). -/
  initDone : Nat
  /-- The host requests reset (`60_exceptions.md` R173, `30_encoding.md` R71 `rst`). -/
  rst : Bool
  /-- The packets the host presents, oldest first; the head is the one on the command port (`60_exceptions.md` R173;
  log entries 16 and 17). -/
  cmds : List Packet
  /-- Every `RESULT` handed to the host, oldest first (`30_encoding.md` R65, `70_reset_and_hazards.md` R199). -/
  responses : List Word
deriving DecidableEq, Repr

/-- The machine right after power-on, which is a reset (`70_reset_and_hazards.md` R190, R191; `10_state.md` R34), with
a host that has requested, presented and received nothing (log entry 1). -/
def State.reset : State where
  mode := .init
  cause := .none
  fcmd := 0
  fword := 0
  table8 := []
  table16 := []
  initDone := 0
  rst := false
  cmds := []
  responses := []

end Sys2Proof.Machine
end

