-- ==== Sys2Proof/Machine/Ops.lean ====
section
/-! DEFINITION. The shared operations: table reads and writes, the status view, responses, fault entry, reset, the hold
of a command outside READY, and the loop of the iterative strategies. -/

namespace Sys2Proof.Machine

/-! Tables (`20_memory.md` R40 to R43) -/

/-- The canonical form of a table: indices strictly rising. No entry could be listed needlessly, since an unlisted index
has no value at all (log entry 4). -/
def Memory.wf : Memory → Bool
  | [] => true
  | c :: m => m.all (fun d => decide (c.1 < d.1)) && Memory.wf m

/-- `MemRead`: the entry at an index, or nothing where none was written (`00_scope.md` R7, U5). -/
def Memory.read : Memory → Nat → Option Entry
  | [], _ => none
  | c :: m, i => if c.1 = i then some c.2 else Memory.read m i

/-- `MemWrite`: one entry written, the order kept (`00_scope.md` R7). -/
def Memory.write : Memory → Nat → Entry → Memory
  | [], i, v => [(i, v)]
  | c :: m, i, v =>
    if i < c.1 then (i, v) :: c :: m
    else if i = c.1 then (i, v) :: m
    else c :: Memory.write m i v

/-- The initialiser's write of one entry of TABLE8 (`41_popcount_table.md` R100). -/
def writeTable8 (x : Nat) (v : Entry) (s : State) : State :=
  { s with table8 := s.table8.write x v, initDone := s.initDone + 1 }

/-- The initialiser's write of one entry of TABLE16 (`41_popcount_table.md` R100). -/
def writeTable16 (x : Nat) (v : Entry) (s : State) : State :=
  { s with table16 := s.table16.write x v, initDone := s.initDone + 1 }

/-- The running sum of the entries at the listed indices, each zero-extended to 7 bits and added in order; nothing
if one of them has no value (`41_popcount_table.md` R101, R103, R105; log entries 4 and 15). -/
def sumEntries (t : Memory) : List Nat → Count → Option Count
  | [], n => some n
  | i :: is, n =>
    match t.read i with
    | some e => sumEntries t is (n + e.setWidth 7)
    | none => none

/-! The status view (`10_state.md` R25) -/

/-- The code of a phase (`10_state.md` R21). -/
def modeCode : Mode → BitVec 2
  | .init => 0
  | .ready => 1
  | .faulted => 2

/-- The code of a cause (`10_state.md` R22). -/
def causeCode : Cause → BitVec 2
  | .none => 0
  | .illegalCommand => 1
  | .domainViolation => 2

/-- `STATUS`: `MODE` in bits 1:0, `CAUSE` in bits 3:2, `FCMD` in bits 7:4 (`10_state.md` R25). Reading it changes nothing. -/
def readStatus (s : State) : BitVec 8 := (s.fcmd ++ causeCode s.cause) ++ modeCode s.mode

/-- `FWORD`, the second register the host reads (`10_state.md` R24, R25). -/
def readFword (s : State) : Word := s.fword

/-! Responses, faults and reset -/

/-- `respond(v)`: hand the response to the host (`30_encoding.md` R65; log entry 12). -/
def respond (r : Word) (s : State) : State := { s with responses := s.responses ++ [r] }

/-- The head packet leaves the command port when its command is accepted (`30_encoding.md` R70; log entry 18). -/
def setCmds (ps : List Packet) (s : State) : State := { s with cmds := ps }

/-- The two faults the engine raises (`60_exceptions.md` R160). -/
inductive EngineFault where
  /-- A reserved command code (`60_exceptions.md` R161). -/
  | illegalCommand
  /-- A non-positive operand of an iterative command (`60_exceptions.md` R162). -/
  | domainViolation
deriving DecidableEq, Repr

/-- The `CAUSE` value a fault records (`60_exceptions.md` R160). -/
def faultCause : EngineFault → Cause
  | .illegalCommand => .illegalCommand
  | .domainViolation => .domainViolation

/-- `raise F(code, w)`: fault entry, the one shared operation (`60_exceptions.md` R166). No response is produced and the
tables are unchanged. -/
def raiseFault (f : EngineFault) (code : Code) (w : Word) (s : State) : State :=
  { s with cause := faultCause f, fcmd := code, fword := w, mode := .faulted }

/-- The only way back from a fault: reset (`60_exceptions.md` R168, `70_reset_and_hazards.md` R190). The engine goes to
the reset state; the packets the host presents stay presented, and what the host has received stays received (log
entry 2). The request is answered. -/
def takeReset (s : State) : State :=
  { State.reset with cmds := s.cmds, responses := s.responses }

/-- `MODE <- READY`, the initialiser's last step (`70_reset_and_hazards.md` R193). -/
def becomeReady (s : State) : State := { s with mode := .ready }

/-- A command is accepted in READY alone; in INIT and in FAULTED it is held (`30_encoding.md` R70; log entry 7). -/
def whenReady (s : State) (s' : Host.Outcome State Fault Refusal) : Host.Outcome State Fault Refusal :=
  match s.mode with
  | .ready => s'
  | .init => .fault .heldInInit
  | .faulted => .fault .heldInFaulted

/-! The loop of the iterative strategies -/

/-- The working registers `V` and `N`, which exist only inside one command (`10_state.md` R29; log entry 5). -/
structure Work where
  /-- `V`, the word being consumed. -/
  v : Word
  /-- `N`, the running count. -/
  n : Count
deriving DecidableEq, Repr

/-- `while V != 0: body`, the exit test before each repetition (`00_scope.md` R7), with a bound on the repetitions
(log entry 9). -/
def whileNonzero (body : Work → Work) : Nat → Work → Work
  | 0, k => k
  | b + 1, k => if k.v = 0 then k else whileNonzero body b (body k)

end Sys2Proof.Machine
end

