-- ==== Sys2Proof/Machine/Folding.lean ====
section
/-! DEFINITION. POPCNT.FOLD (`42_popcount_folding.md`). -/

namespace Sys2Proof.Machine

/-- `fold_round(k, V)`: every pair of neighbouring counters of width 2^k replaced by their sum (R121). -/
def foldRound (v : Word) (k : Fin 6) : Word :=
  (v &&& lowMask k) + ((v >>> groupWidth k) &&& lowMask k)

/-- `V` after the listed rounds (R122). -/
def foldRounds (w : Word) (ks : List (Fin 6)) : Word := ks.foldl foldRound w

/-- `fold_fn`: six rounds in ascending order, then `V[6:0]` (R122). -/
def foldFn (w : Word) : Count := (foldRounds w Config.roundOrder).extractLsb' 0 7

/-- POPCNT.FOLD: `respond(zext_64(fold_fn(w)))`, no guard (R123). -/
def execPopcntFold (w : Word) (s : State) : Host.Outcome State Fault Refusal :=
  whenReady s (.next (respond (zext64 (foldFn w)) s))

end Sys2Proof.Machine
end

