-- ==== Sys2Proof/Machine/Iterative.lean ====
section
/-! DEFINITION. POPCNT.ITER, POPCNT.SPARSE, POPCNT.DENSE (`40_popcount_iterative.md`). -/

namespace Sys2Proof.Machine

/-- One iteration of the Iterated strategy: accumulate the least significant bit, shift right logically (R82). -/
def iterBody (k : Work) : Work := { v := k.v >>> 1, n := k.n + lowBit k.v }

/-- One iteration of the Sparse strategy: clear the lowest set bit, count (R84). -/
def sparseBody (k : Work) : Work := { v := k.v &&& (k.v - 1), n := k.n + 1 }

/-- The working registers as `iter_fn` leaves them (R82). -/
def iterRun (w : Word) : Work := whileNonzero iterBody Config.loopBound { v := w, n := 0 }

/-- The working registers as the loop of `sparse_fn` leaves them (R84). -/
def sparseRun (w : Word) : Work := whileNonzero sparseBody Config.loopBound { v := w, n := 0 }

/-- `iter_fn` (R82). -/
def iterFn (w : Word) : Count := (iterRun w).n

/-- `sparse_fn` (R84). -/
def sparseFn (w : Word) : Count := (sparseRun w).n

/-- `dense_fn`: the loop of `sparse_fn` on the complement, subtracted from 64 (R86). -/
def denseFn (w : Word) : Count := 64 - (sparseRun (~~~w)).n

/-- An iterative command in READY: the guard on the operand, then the response (R80, R81). -/
def guardedCount (strict : Bool) (code : Code) (w : Word) (fn : Word → Count) (s : State) :
    Host.Outcome State Fault Refusal :=
  whenReady s (.next (if outsideDomain strict w then raiseFault .domainViolation code w s
    else respond (zext64 (fn w)) s))

/-- POPCNT.ITER over the parameter STRICT_DOMAIN: `guard(0, w) ; respond(zext_64(iter_fn(w)))` (R83). -/
def execPopcntIterWith (strict : Bool) (w : Word) (s : State) : Host.Outcome State Fault Refusal :=
  guardedCount strict 0b0000#4 w iterFn s

/-- POPCNT.SPARSE over the parameter STRICT_DOMAIN: `guard(1, w) ; respond(zext_64(sparse_fn(w)))` (R85). -/
def execPopcntSparseWith (strict : Bool) (w : Word) (s : State) : Host.Outcome State Fault Refusal :=
  guardedCount strict 0b0001#4 w sparseFn s

/-- POPCNT.DENSE over the parameter STRICT_DOMAIN: `guard(2, w) ; respond(zext_64(dense_fn(w)))`; the guard tests w,
not its complement (R87). -/
def execPopcntDenseWith (strict : Bool) (w : Word) (s : State) : Host.Outcome State Fault Refusal :=
  guardedCount strict 0b0010#4 w denseFn s

/-- POPCNT.ITER of this hardware (R83; STRICT_DOMAIN of `00_scope.md` R4). -/
def execPopcntIter (w : Word) (s : State) : Host.Outcome State Fault Refusal :=
  execPopcntIterWith Config.strictDomain w s

/-- POPCNT.SPARSE of this hardware (R85; STRICT_DOMAIN of `00_scope.md` R4). -/
def execPopcntSparse (w : Word) (s : State) : Host.Outcome State Fault Refusal :=
  execPopcntSparseWith Config.strictDomain w s

/-- POPCNT.DENSE of this hardware (R87; STRICT_DOMAIN of `00_scope.md` R4). -/
def execPopcntDense (w : Word) (s : State) : Host.Outcome State Fault Refusal :=
  execPopcntDenseWith Config.strictDomain w s

end Sys2Proof.Machine
end

