-- ==== Sys2Proof/Machine/Reversal.lean ====
section
/-! DEFINITION. REVBITS (`43_bit_reversal.md`). -/

namespace Sys2Proof.Machine

/-- `swap_stage(k, V)`: adjacent groups of width 2^k exchanged; the right shift is logical (R130, R134). -/
def swapStage (v : Word) (k : Fin 6) : Word :=
  ((v &&& highMask k) >>> groupWidth k) ||| ((v &&& lowMask k) <<< groupWidth k)

/-- `V` after the listed stages (R131). -/
def swapStages (w : Word) (ks : List (Fin 6)) : Word := ks.foldl swapStage w

/-- `rev_fn`: the six stages of widths 32, 16, 8, 4, 2, 1 (R131). -/
def revFn (w : Word) : Word := swapStages w Config.stageOrder

/-- REVBITS: `respond(rev_fn(w))`, no guard, nothing extended or truncated (R132). -/
def execRevbits (w : Word) (s : State) : Host.Outcome State Fault Refusal :=
  whenReady s (.next (respond (revFn w) s))

end Sys2Proof.Machine
end

