-- ==== Sys2Proof/Machine/Table.lean ====
section
/-! DEFINITION. POPCNT.BYTETAB and POPCNT.HALFTAB (`41_popcount_table.md`). -/

namespace Sys2Proof.Machine

/-- `tab8_fn`: the sum of the eight byte lanes' TABLE8 entries (R101); nothing if an entry has no value. -/
def tab8Fn (t : Memory) (w : Word) : Option Count := sumEntries t (byteIndices w) 0

/-- `tab16_fn`: the sum of the four halfword lanes' TABLE16 entries (R103); nothing if an entry has no value. -/
def tab16Fn (t : Memory) (w : Word) : Option Count := sumEntries t (halfIndices w) 0

/-- The response of a table command: the sum, or a refusal if an entry read has no value (U5; log entry 4). -/
def respondSum (sum : Option Count) (s : State) : Host.Outcome State Fault Refusal :=
  match sum with
  | some n => .next (respond (zext64 n) s)
  | none => .refused .unwrittenTableEntry

/-- POPCNT.BYTETAB: `respond(zext_64(tab8_fn(w)))`, no guard (R102). -/
def execPopcntBytetab (w : Word) (s : State) : Host.Outcome State Fault Refusal :=
  whenReady s (respondSum (tab8Fn s.table8 w) s)

/-- POPCNT.HALFTAB: `respond(zext_64(tab16_fn(w)))`, no guard (R104). -/
def execPopcntHalftab (w : Word) (s : State) : Host.Outcome State Fault Refusal :=
  whenReady s (respondSum (tab16Fn s.table16 w) s)

end Sys2Proof.Machine
end

