-- ==== Sys2Proof/Machine/Dispatch.lean ====
section
/-! DEFINITION. One arm per command (`30_encoding.md` R70: every command rule is an arm of the command step). -/

namespace Sys2Proof.Machine

/-- The effect of a command accepted in a state. -/
def exec (i : Instr) (s : State) : Host.Outcome State Fault Refusal :=
  match i with
  | .popcntIter w => Sys2Proof.Machine.execPopcntIter w s
  | .popcntSparse w => Sys2Proof.Machine.execPopcntSparse w s
  | .popcntDense w => Sys2Proof.Machine.execPopcntDense w s
  | .popcntBytetab w => Sys2Proof.Machine.execPopcntBytetab w s
  | .popcntHalftab w => Sys2Proof.Machine.execPopcntHalftab w s
  | .popcntFold w => Sys2Proof.Machine.execPopcntFold w s
  | .revbits w => Sys2Proof.Machine.execRevbits w s

end Sys2Proof.Machine
end

