-- ==== Sys2Proof/Machine/Command.lean ====
section
/-! DEFINITION. The command step: acceptance of the packet on the port, decoding, execution (`30_encoding.md` R70). -/

namespace Sys2Proof.Machine

/-- A decoded packet executed: a legal command by its meaning, a reserved code by IllegalCommand (`30_encoding.md` R64,
R70; `60_exceptions.md` R161). -/
def execDecoded (d : Decoded) (s : State) : Host.Outcome State Fault Refusal :=
  match d with
  | .legal i => exec i s
  | .illegal code w => whenReady s (.next (raiseFault .illegalCommand code w s))

/-- READY: the packet on the port is accepted and executed as one atomic step; with none presented the engine waits
(`30_encoding.md` R70, `70_reset_and_hazards.md` R198; log entry 6). -/
def commandStep (s : State) : Host.Outcome State Fault Refusal :=
  match s.cmds with
  | [] => .next s
  | p :: ps => execDecoded (decode p) (setCmds ps s)

end Sys2Proof.Machine
end

