-- ==== Sys2Proof/Machine/Initialiser.lean ====
section
/-! DEFINITION. The initialiser (`41_popcount_table.md` R100, `70_reset_and_hazards.md` R192, R193). -/

namespace Sys2Proof.Machine

/-- The value the initialiser writes at index x: `iter_fn(zext_64(x))`, the unguarded function (R100). -/
def builtEntry (x : Nat) : Entry := (iterFn (BitVec.ofNat 64 x)).setWidth 8

/-- The entries the initialiser has written once it has reached index `x + k` from index `x`. -/
def builtFrom (x : Nat) : Nat → Memory
  | 0 => []
  | k + 1 => (x, builtEntry x) :: builtFrom (x + 1) k

/-- A table whose first `k` entries are written. -/
def builtTable (k : Nat) : Memory := builtFrom 0 k

/-- One step of the initialiser: the next table write in ascending order, TABLE8 before TABLE16 (R100), or, when the
last entry has been written, `MODE <- READY` (R193; log entry 3). -/
def initialiserStep (s : State) : State :=
  if s.initDone < Config.t8Entries then writeTable8 s.initDone (builtEntry s.initDone) s
  else if s.initDone < Config.initWrites then
    writeTable16 (s.initDone - Config.t8Entries) (builtEntry (s.initDone - Config.t8Entries)) s
  else becomeReady s

/-- The state in which a command can be accepted next: reset and INIT over, the host's packets and responses kept
(`70_reset_and_hazards.md` R193; log entry 8). -/
def booted (s : State) : State :=
  { takeReset s with
    mode := .ready
    table8 := builtTable Config.t8Entries
    table16 := builtTable Config.t16Entries
    initDone := Config.initWrites }

end Sys2Proof.Machine
end

