-- ==== Sys2Proof/Machine/Step.lean ====
section
/-! DEFINITION. One step of the machine, and how a packet is placed to be the next one run. -/

namespace Sys2Proof.Machine

/-- One step. A reset request is honoured in any mode and overrides everything (`60_exceptions.md` R165,
`70_reset_and_hazards.md` R190; log entry 11). Otherwise the initialiser runs in INIT (R192), a command in READY
(`30_encoding.md` R70), and in FAULTED nothing does (`60_exceptions.md` R169; log entry 6). -/
def step (s : State) : Host.Outcome State Fault Refusal :=
  if s.rst then .next (takeReset s)
  else match s.mode with
    | .init => .next (initialiserStep s)
    | .ready => commandStep s
    | .faulted => .next s

/-- The engine does not fetch; it takes the packet on the command port, in READY alone (`10_state.md` R31). So the
state is the one INIT leaves, with the packet of this word on the port before the others (log entry 8). A word that is
no packet places none. -/
def State.withFetchWord (s : State) (nbits w : Nat) : State :=
  match tablePacket nbits w with
  | some p => setCmds (p :: s.cmds) (booted s)
  | none => booted s

end Sys2Proof.Machine
end

