-- ==== Sys2Proof/Machine/Assembler.lean ====
section
/-! DEFINITION. The textual form of a command and the two pseudo-commands (`30_encoding.md` R61, R66, R67). A line is a
list of characters. What R66 leaves open of the text is in log entry 13. -/

namespace Sys2Proof.Machine

/-- The strategy argument of populationCount, in the source's order (`30_encoding.md` R61). -/
inductive Strategy where
  /-- Iterated, 0. -/
  | iterated
  /-- Sparse, 1. -/
  | sparse
  /-- Dense, 2. -/
  | dense
  /-- ByteTable, 3. -/
  | byteTable
  /-- HalfwordTable, 4. -/
  | halfwordTable
  /-- Folding, 5. -/
  | folding
deriving DecidableEq, Repr

/-- The number of a strategy in `STRAT` (`30_encoding.md` R61). -/
def strategyNumber : Strategy → BitVec 3
  | .iterated => 0
  | .sparse => 1
  | .dense => 2
  | .byteTable => 3
  | .halfwordTable => 4
  | .folding => 5

/-- The pseudo-command `populationCount(w, S)` and the one command it expands to (`30_encoding.md` R67). -/
def populationCount (w : Word) : Strategy → Instr
  | .iterated => .popcntIter w
  | .sparse => .popcntSparse w
  | .dense => .popcntDense w
  | .byteTable => .popcntBytetab w
  | .halfwordTable => .popcntHalftab w
  | .folding => .popcntFold w

/-- The pseudo-command `reverseBits(w)` (`30_encoding.md` R67). -/
def reverseBits (w : Word) : Instr := .revbits w

/-- The command a mnemonic names, given its operand (`30_encoding.md` R63). -/
def mnemonicInstr (m : List Char) (w : Word) : Option Instr :=
  if m = ['P', 'O', 'P', 'C', 'N', 'T', '.', 'I', 'T', 'E', 'R'] then some (.popcntIter w)
  else if m = ['P', 'O', 'P', 'C', 'N', 'T', '.', 'S', 'P', 'A', 'R', 'S', 'E'] then some (.popcntSparse w)
  else if m = ['P', 'O', 'P', 'C', 'N', 'T', '.', 'D', 'E', 'N', 'S', 'E'] then some (.popcntDense w)
  else if m = ['P', 'O', 'P', 'C', 'N', 'T', '.', 'B', 'Y', 'T', 'E', 'T', 'A', 'B'] then some (.popcntBytetab w)
  else if m = ['P', 'O', 'P', 'C', 'N', 'T', '.', 'H', 'A', 'L', 'F', 'T', 'A', 'B'] then some (.popcntHalftab w)
  else if m = ['P', 'O', 'P', 'C', 'N', 'T', '.', 'F', 'O', 'L', 'D'] then some (.popcntFold w)
  else if m = ['R', 'E', 'V', 'B', 'I', 'T', 'S'] then some (.revbits w)
  else none

/-- The strategy a name stands for (`30_encoding.md` R67). -/
def strategyNamed (m : List Char) : Option Strategy :=
  if m = ['I', 't', 'e', 'r', 'a', 't', 'e', 'd'] then some .iterated
  else if m = ['S', 'p', 'a', 'r', 's', 'e'] then some .sparse
  else if m = ['D', 'e', 'n', 's', 'e'] then some .dense
  else if m = ['B', 'y', 't', 'e', 'T', 'a', 'b', 'l', 'e'] then some .byteTable
  else if m = ['H', 'a', 'l', 'f', 'w', 'o', 'r', 'd', 'T', 'a', 'b', 'l', 'e'] then some .halfwordTable
  else if m = ['F', 'o', 'l', 'd', 'i', 'n', 'g'] then some .folding
  else none

/-- The value of a decimal digit. -/
def decDigit (c : Char) : Option Nat :=
  if '0'.toNat ≤ c.toNat ∧ c.toNat ≤ '9'.toNat then some (c.toNat - '0'.toNat) else none

/-- The value of a hexadecimal digit, of either case (log entry 13). -/
def hexDigit (c : Char) : Option Nat :=
  if 'A'.toNat ≤ c.toNat ∧ c.toNat ≤ 'F'.toNat then some (c.toNat - 'A'.toNat + 10)
  else if 'a'.toNat ≤ c.toNat ∧ c.toNat ≤ 'f'.toNat then some (c.toNat - 'a'.toNat + 10)
  else decDigit c

/-- The number a string of digits stands for in a base, most significant digit first. -/
def numeral (base : Nat) (digit : Char → Option Nat) : List Char → Nat → Option Nat
  | [], n => some n
  | c :: cs, n =>
    match digit c with
    | some d => numeral base digit cs (n * base + d)
    | none => none

/-- An operand: `0x` and 1 to 16 hexadecimal digits, zero-extended to 64 bits, or a decimal literal of at most
18446744073709551615 (`30_encoding.md` R66). -/
def parseOperand : List Char → Option Word
  | '0' :: 'x' :: ds =>
    if 1 ≤ ds.length ∧ ds.length ≤ 16 then (numeral 16 hexDigit ds 0).map (BitVec.ofNat 64) else none
  | [] => none
  | ds =>
    match numeral 10 decDigit ds 0 with
    | some n => if n ≤ 18446744073709551615 then some (BitVec.ofNat 64 n) else none
    | none => none

/-- Every character that is no space. -/
def notSpace (c : Char) : Bool := c != ' '

/-- `MNEMONIC operand`, with one or more spaces between (`30_encoding.md` R66). -/
def parseCommand (l : List Char) : Option Instr :=
  match l.dropWhile notSpace with
  | [] => none
  | _ :: rest =>
    match parseOperand (rest.dropWhile fun c => !notSpace c) with
    | some w => mnemonicInstr (l.takeWhile notSpace) w
    | none => none

/-- What follows a prefix of a list of characters, if the list begins with it. -/
def afterPrefix : List Char → List Char → Option (List Char)
  | [], l => some l
  | _ :: _, [] => none
  | a :: as, c :: l => if a = c then afterPrefix as l else none

/-- The characters before a closing parenthesis that ends the list. -/
def untilClose : List Char → Option (List Char)
  | [] => none
  | [c] => if c = ')' then some [] else none
  | c :: l => (untilClose l).map (c :: ·)

/-- `populationCount(w, S)` and `reverseBits(w)` as text (`30_encoding.md` R67). -/
def parsePseudo (l : List Char) : Option Instr :=
  match afterPrefix ['p', 'o', 'p', 'u', 'l', 'a', 't', 'i', 'o', 'n', 'C', 'o', 'u', 'n', 't', '('] l,
      afterPrefix ['r', 'e', 'v', 'e', 'r', 's', 'e', 'B', 'i', 't', 's', '('] l with
  | some args, _ =>
    match untilClose args with
    | some inner =>
      match parseOperand (inner.takeWhile (· != ',')), inner.dropWhile (· != ',') with
      | some w, _ :: name => (strategyNamed (name.dropWhile fun c => !notSpace c)).map (populationCount w)
      | _, _ => none
    | none => none
  | none, some arg => ((untilClose arg).bind parseOperand).map reverseBits
  | none, none => none

/-- What a line of text is. -/
inductive AsmLine where
  /-- One command. -/
  | command (i : Instr)
  /-- Nothing but spaces and a comment. -/
  | blank
  /-- Not a line of the syntax. -/
  | bad
deriving DecidableEq, Repr

/-- A line without its comment, which runs from `;` to the end of the line, and without the spaces before it
(`30_encoding.md` R66). -/
def lineText (line : List Char) : List Char :=
  ((line.takeWhile (· != ';')).reverse.dropWhile fun c => !notSpace c).reverse

/-- One line of text assembled (`30_encoding.md` R66, R67). -/
def assembleLine (line : List Char) : AsmLine :=
  match lineText line with
  | [] => .blank
  | l =>
    match parseCommand l, parsePseudo l with
    | some i, _ => .command i
    | none, some i => .command i
    | none, none => .bad

/-- A program: the packets of its lines in order, or nothing if a line is bad (`30_encoding.md` R66: one command per line). -/
def assemble : List (List Char) → Option (List Packet)
  | [] => some []
  | line :: lines =>
    match assembleLine line with
    | .command i => (assemble lines).map (encode i :: ·)
    | .blank => assemble lines
    | .bad => none

/-- The mnemonic of a command (`30_encoding.md` R63). -/
def mnemonicOf (i : Instr) : List Char :=
  match i with
  | .popcntIter _ => ['P', 'O', 'P', 'C', 'N', 'T', '.', 'I', 'T', 'E', 'R']
  | .popcntSparse _ => ['P', 'O', 'P', 'C', 'N', 'T', '.', 'S', 'P', 'A', 'R', 'S', 'E']
  | .popcntDense _ => ['P', 'O', 'P', 'C', 'N', 'T', '.', 'D', 'E', 'N', 'S', 'E']
  | .popcntBytetab _ => ['P', 'O', 'P', 'C', 'N', 'T', '.', 'B', 'Y', 'T', 'E', 'T', 'A', 'B']
  | .popcntHalftab _ => ['P', 'O', 'P', 'C', 'N', 'T', '.', 'H', 'A', 'L', 'F', 'T', 'A', 'B']
  | .popcntFold _ => ['P', 'O', 'P', 'C', 'N', 'T', '.', 'F', 'O', 'L', 'D']
  | .revbits _ => ['R', 'E', 'V', 'B', 'I', 'T', 'S']

/-- The hexadecimal digit of a 4-bit value. -/
def hexChar (d : BitVec 4) : Char :=
  if d.toNat < 10 then Char.ofNat ('0'.toNat + d.toNat) else Char.ofNat ('A'.toNat + (d.toNat - 10))

/-- The sixteen hexadecimal digits of a word, most significant first (`00_scope.md` R5). -/
def hexText (w : Word) : List Char :=
  [15, 14, 13, 12, 11, 10, 9, 8, 7, 6, 5, 4, 3, 2, 1, 0].map fun j => hexChar (w.extractLsb' (4 * j) 4)

/-- A command as a line of text, its operand written in full (`30_encoding.md` R66). -/
def renderLine (i : Instr) : List Char := mnemonicOf i ++ ' ' :: '0' :: 'x' :: hexText i.operand

end Sys2Proof.Machine
end

