-- ==== Sys2Proof/Machine/Ports.lean ====
section
/-! DEFINITION. What the host can do and see (`60_exceptions.md` R173), under the port names of `30_encoding.md` R71. -/

namespace Sys2Proof.Machine

/-- Issue command: the host presents any packet; it waits its turn behind those already presented (R173). -/
def present (p : Packet) (s : State) : State := { s with cmds := s.cmds ++ [p] }

/-- Reset: the host requests it at any time, in any mode (R173; `rst`). -/
def requestReset (s : State) : State := { s with rst := true }

/-- `cmd_valid`: the host presents a command. -/
def cmdValid (s : State) : Bool := !s.cmds.isEmpty

/-- `cmd_ready`: the engine accepts a command, only in READY; no command is executing between steps. The rule does not say
whether it holds in READY while a reset request is pending; that it does, though the step then takes the reset and
accepts no command, is the model's choice (DESIGN CHOICE, log entry 20; no step and no statement reads it). -/
def cmdReady (s : State) : Bool := s.mode == .ready

/-- `cmd_code`: `CMD` of the packet on the port; nothing where no packet is presented (log entry 20). -/
def cmdCode (s : State) : Option Code := s.cmds.head?.map packetCode

/-- `cmd_word`: `OPERAND` of the packet on the port; nothing where no packet is presented (log entry 20). -/
def cmdWord (s : State) : Option Word := s.cmds.head?.map packetOperand

/-- `rsp_valid` and `rsp_result`: the last response handed over, if any. The spec does not say when a response stops
being available; that the last one stays on the port until the next, also over a fault and a reset, is the model's choice
(DESIGN CHOICE, log entry 19; no step and no statement reads it). -/
def rspResult (s : State) : Option Word := s.responses.getLast?

/-- `status`: `STATUS`, always readable. -/
def statusPort (s : State) : BitVec 8 := readStatus s

/-- `fword`: `FWORD`, always readable. -/
def fwordPort (s : State) : Word := readFword s

end Sys2Proof.Machine
end

