-- ==== Sys2Proof/Machine/Reference.lean ====
section
/-! DEFINITION. The reference functions the spec measures the engine by (`00_scope.md` R6, R9, R10), and the reply a
packet must get by them alone (`44_properties.md` R140, R149). The engine does not call any
of them. -/

namespace Sys2Proof.Machine

/-- The number of set bits among the `k` lowest bits. -/
def popcountUpTo {n : Nat} (w : BitVec n) : Nat → Nat
  | 0 => 0
  | k + 1 => popcountUpTo w k + (w.getLsbD k).toNat

/-- `popcount(w)`, the sum of the bits of `w`, at any width (`00_scope.md` R9). -/
def popcount {n : Nat} (w : BitVec n) : Nat := popcountUpTo w n

/-- `bitrev(w)`: bit i of the result is bit 63 - i of `w` (`00_scope.md` R10). -/
def bitrev (w : Word) : Word := BitVec.ofFnLE fun i : Fin 64 => w.getLsbD (63 - i.val)

/-- 1 + the index of the most significant set bit among the `k` lowest, 0 if there is none. -/
def bitlenUpTo (w : Word) : Nat → Nat
  | 0 => 0
  | k + 1 => if w.getLsbD k then k + 1 else bitlenUpTo w k

/-- `bitlen(w)` (`00_scope.md` R6). -/
def bitlen (w : Word) : Nat := bitlenUpTo w 64

/-- The working registers after each repetition of a loop, oldest first; its length is the number of repetitions
(`40_popcount_iterative.md` R89). -/
def loopTrace (body : Work → Work) : Nat → Work → List Work
  | 0, _ => []
  | b + 1, k => if k.v = 0 then [] else body k :: loopTrace body b (body k)

/-- The working registers of `iter_fn(w)` after each iteration (`40_popcount_iterative.md` R82). -/
def iterTrace (w : Word) : List Work := loopTrace iterBody Config.loopBound { v := w, n := 0 }

/-- The working registers of the loop of `sparse_fn(w)` after each iteration (`40_popcount_iterative.md` R84). -/
def sparseTrace (w : Word) : List Work := loopTrace sparseBody Config.loopBound { v := w, n := 0 }

/-- What a packet must get: a response, or a fault. -/
inductive Reply where
  /-- The 64-bit response (`30_encoding.md` R65). -/
  | response (r : Word)
  /-- No response, a fault record instead (`60_exceptions.md` R166). -/
  | fault (f : EngineFault)
deriving DecidableEq, Repr

/-- The count as a 64-bit response (`30_encoding.md` R65). -/
def countReply (w : Word) : Reply := .response (BitVec.ofNat 64 (popcount w))

/-- The reply of a guarded command (`40_popcount_iterative.md` R81). -/
def guardedReply (strict : Bool) (w : Word) : Reply :=
  if strict = true ∧ (w = 0 ∨ w.getLsbD 63 = true) then .fault .domainViolation else countReply w

/-- The reply to a command by the reference functions alone (`44_properties.md` R140, R149). -/
def instrReply (strict : Bool) (i : Instr) : Reply :=
  match i with
  | .popcntIter w => guardedReply strict w
  | .popcntSparse w => guardedReply strict w
  | .popcntDense w => guardedReply strict w
  | .popcntBytetab w => countReply w
  | .popcntHalftab w => countReply w
  | .popcntFold w => countReply w
  | .revbits w => .response (bitrev w)

/-- The reply to a packet: a function of the packet alone (`44_properties.md` R149). -/
def packetReply (strict : Bool) (p : Packet) : Reply :=
  match decode p with
  | .legal i => instrReply strict i
  | .illegal _ _ => .fault .illegalCommand

/-- The state after a reply to the packet `p`: a response leaves everything else as it was (`10_state.md` R35), a fault
is recorded with the packet's own code and operand (`60_exceptions.md` R166, R167). -/
def afterReply (p : Packet) (r : Reply) (s : State) : State :=
  match r with
  | .response v => respond v s
  | .fault f => raiseFault f (packetCode p) (packetOperand p) s

end Sys2Proof.Machine
end

