-- ==== Sys2Proof/Safety.lean ====
section
/-! DEFINITION. What the statements are made of: the invariant of the machine, the end of a run (`70_reset_and_hazards.md`
R199), and runs of several steps. -/

namespace Sys2Proof.Machine

/-- A table of `n`-bit indices of which the first `k` entries are written, each with the count of its index; nothing
else is written (`10_state.md` R28; `41_popcount_table.md` R100). -/
def TableBuilt (n : Nat) (t : Memory) (k : Nat) : Prop :=
  t.wf = true ∧ ∀ x : Nat, t.read x = if x < k then some (BitVec.ofNat 8 (popcount (BitVec.ofNat n x))) else none

/-- A fault record and the phase that goes with it: none outside FAULTED, where FCMD and FWORD read 0; in FAULTED one of
the pairs of `60_exceptions.md` R160 (`10_state.md` R22 to R25). -/
def RecordLegal (s : State) : Prop :=
  match s.cause with
  | .none => s.mode ≠ .faulted ∧ s.fcmd = 0 ∧ s.fword = 0
  | .illegalCommand => s.mode = .faulted ∧ legalCode s.fcmd = false
  | .domainViolation => s.mode = .faulted ∧ s.fcmd.toNat < 3 ∧ (s.fword = 0 ∨ s.fword.getLsbD 63 = true)

/-- The invariant of the machine: the tables hold what the initialiser has written so far and nothing else, they are
complete outside INIT (`10_state.md` R28), and the fault record is legal (R22 to R25). -/
structure Inv (s : State) : Prop where
  /-- The initialiser is somewhere in its build (`70_reset_and_hazards.md` R192). -/
  progress : s.initDone ≤ Config.initWrites
  /-- Outside INIT the build is over (`70_reset_and_hazards.md` R193). -/
  complete : s.mode ≠ .init → s.initDone = Config.initWrites
  /-- TABLE8 (`10_state.md` R28). -/
  table8 : TableBuilt 8 s.table8 (min s.initDone Config.t8Entries)
  /-- TABLE16 (`10_state.md` R28). -/
  table16 : TableBuilt 16 s.table16 (s.initDone - Config.t8Entries)
  /-- The fault record (`60_exceptions.md` R160). -/
  record : RecordLegal s

/-- `k` steps of the machine. -/
def run (k : Nat) (s : State) : Host.Outcome State Fault Refusal := Sys2Proof.core.run k s

/-- A run has ended well (`70_reset_and_hazards.md` R199). -/
def runEndedWell (s : State) : Prop := s.mode = .ready ∧ s.cause = .none ∧ s.cmds = []

/-- A run has gone wrong (`70_reset_and_hazards.md` R199). -/
def runWentWrong (s : State) : Prop := s.mode = .faulted

/-- The legal values of STATUS (`10_state.md` R25). -/
def legalStatus : List (BitVec 8) :=
  [0x00#8, 0x01#8, 0x66#8, 0x76#8, 0x96#8, 0xA6#8, 0xB6#8, 0xC6#8, 0xD6#8, 0xE6#8, 0xF6#8, 0x0A#8, 0x1A#8, 0x2A#8]

/-- The engine ready for the next command: READY, no reset requested, the invariant held. -/
def Serving (s : State) : Prop := s.mode = .ready ∧ s.rst = false ∧ Inv s

/-- The responses a list of packets gets, up to the first that faults (`70_reset_and_hazards.md` R199). -/
def repliesUpToFault (strict : Bool) : List Packet → List Word
  | [] => []
  | p :: ps =>
    match packetReply strict p with
    | .response r => r :: repliesUpToFault strict ps
    | .fault _ => []

/-- The first packet of a list that faults, with its fault and the packets behind it (`60_exceptions.md` R165, R167). -/
def firstFault (strict : Bool) : List Packet → Option (Packet × EngineFault × List Packet)
  | [] => none
  | p :: ps =>
    match packetReply strict p with
    | .response _ => firstFault strict ps
    | .fault f => some (p, f, ps)

end Sys2Proof.Machine
end

