-- ==== Sys2Proof/Certificates/Slice0/Obligations.lean ====
section
/-! DEFINITION. The statements for the provers, in the order of the spec's files. Each docstring names the rule. -/

open Sys2Proof Sys2Proof.Machine

/-! Words and encoding (00_scope.md, 30_encoding.md) -/

/-- R60, R61 and R67: the packet as an integer, the two sub-fields of the code, and the number of each strategy. -/
def Obligations.PacketLayoutAndStrategyNumbers : Prop :=
  (∀ (c : Code) (w : Word), (mkPacket c w).toNat = c.toNat * 2 ^ 64 + w.toNat ∧
    packetCode (mkPacket c w) = c ∧ packetOperand (mkPacket c w) = w) ∧
  (∀ (w : Word) (st : Strategy), codeFn (populationCount w st).code = 0#1 ∧
    codeStrat (populationCount w st).code = strategyNumber st ∧ (populationCount w st).operand = w) ∧
  (∀ w : Word, codeFn (reverseBits w).code = 1#1 ∧ codeStrat (reverseBits w).code = 0#3 ∧
    (reverseBits w).operand = w) ∧
  [Strategy.iterated, .sparse, .dense, .byteTable, .halfwordTable, .folding].map strategyNumber =
    [0#3, 1#3, 2#3, 3#3, 4#3, 5#3]

/-- R63: the columns of the opcode map; a packet selects a row exactly when `p & mask = match`, and then decodes to that
row's command with its own operand; the seven legal codes are all there are. -/
def Obligations.OpcodeMapSelectsRow : Prop :=
  (∀ w : Word, [Instr.popcntIter w, .popcntSparse w, .popcntDense w, .popcntBytetab w, .popcntHalftab w, .popcntFold w,
      .revbits w].map (fun i => (i.code, i.rowMatch, i.operand)) =
    [(0#4, 0x00000000000000000#68, w), (1#4, 0x10000000000000000#68, w), (2#4, 0x20000000000000000#68, w),
      (3#4, 0x30000000000000000#68, w), (4#4, 0x40000000000000000#68, w), (5#4, 0x50000000000000000#68, w),
      (8#4, 0x80000000000000000#68, w)]) ∧
  rowMask = 0xF0000000000000000#68 ∧
  (∀ (p : Packet) (i : Instr), decode p = .legal i ↔ p &&& rowMask = i.rowMatch ∧ packetOperand p = i.operand) ∧
  (∀ p : Packet, (∃ i, decode p = .legal i) ↔
    (packetCode p).toNat ∈ [0, 1, 2, 3, 4, 5, 8])

/-- R69: decoding is the total function of the rule, injective on legal packets, with `encode` its inverse both ways. -/
def Obligations.DecodeAndEncodeAreInverse : Prop :=
  (∀ (c : Code) (w : Word), decode (mkPacket c w) =
    match c.toNat with
    | 0 => .legal (.popcntIter w)
    | 1 => .legal (.popcntSparse w)
    | 2 => .legal (.popcntDense w)
    | 3 => .legal (.popcntBytetab w)
    | 4 => .legal (.popcntHalftab w)
    | 5 => .legal (.popcntFold w)
    | 8 => .legal (.revbits w)
    | _ => .illegal c w) ∧
  (∀ i : Instr, decode (encode i) = .legal i) ∧
  (∀ (p : Packet) (i : Instr), decode p = .legal i → encode i = p) ∧
  (∀ (p q : Packet) (i : Instr), decode p = .legal i → decode q = .legal i → p = q)

/-- Packets of 95_test_vectors.md section 2, legal and reserved, decode as the table says. -/
def Obligations.SpecPacketsDecode : Prop :=
  decode 0x000000000000000B5#68 = .legal (.popcntIter 0xB5) ∧
  decode 0x100000000000000B5#68 = .legal (.popcntSparse 0xB5) ∧
  decode 0x27FFFFFFFFFFFFF0F#68 = .legal (.popcntDense 0x7FFFFFFFFFFFFF0F) ∧
  decode 0x30123456789ABCDEF#68 = .legal (.popcntBytetab 0x0123456789ABCDEF) ∧
  decode 0x40123456789ABCDEF#68 = .legal (.popcntHalftab 0x0123456789ABCDEF) ∧
  decode 0x5AAAAAAAAAAAAAAAA#68 = .legal (.popcntFold 0xAAAAAAAAAAAAAAAA) ∧
  decode 0x88000000000000001#68 = .legal (.revbits 0x8000000000000001) ∧
  decode 0x60000000000000000#68 = .illegal 6 0 ∧
  decode 0x70000000000001234#68 = .illegal 7 0x1234 ∧
  decode 0x90000000000000000#68 = .illegal 9 0 ∧
  decode 0xFFFFFFFFFFFFFFFFF#68 = .illegal 15 0xFFFFFFFFFFFFFFFF

/-- The textual form of R66 read back: the line of a command, its operand written in sixteen hexadecimal digits,
assembles to that command. The digits' case and the one space are the model's rendering (log entry 13). -/
def Obligations.AssemblingALineGivesItsCommand : Prop :=
  ∀ i : Instr, assembleLine (renderLine i) = .command i

/-! Reset and INIT (10_state.md, 41_popcount_table.md, 70_reset_and_hazards.md) -/

/-- R190, with the reset values of R34: in every mode, at every point of INIT, a reset request is honoured in one step:
the record is cleared, the tables hold no value, the initialiser is at its start, and the packets the host presents stay
presented. That the host's received responses are kept, and that the request is consumed, is the model's choice (log
entries 2 and 11). -/
def Obligations.ResetIsHonouredInEveryMode : Prop :=
  ∀ s : State, s.rst = true → ∃ t, step s = .next t ∧ t.mode = .init ∧ t.cause = .none ∧ t.fcmd = 0 ∧ t.fword = 0 ∧
    readStatus t = 0x00#8 ∧ readFword t = 0 ∧ (∀ x, t.table8.read x = none) ∧ (∀ x, t.table16.read x = none) ∧
    t.initDone = 0 ∧ t.rst = false ∧ t.cmds = s.cmds ∧ t.responses = s.responses

/-- R34: the values of the state after power-on, which is a reset. That the host has requested, presented and received
nothing is the model's choice (log entry 1). -/
def Obligations.StateAfterPowerOn : Prop :=
  State.reset.mode = .init ∧ State.reset.cause = .none ∧ State.reset.fcmd = 0 ∧ State.reset.fword = 0 ∧
  readStatus State.reset = 0x00#8 ∧ (∀ x, State.reset.table8.read x = none) ∧
  (∀ x, State.reset.table16.read x = none) ∧ State.reset.initDone = 0 ∧
  State.reset.rst = false ∧ State.reset.cmds = [] ∧ State.reset.responses = []

/-- R100: in INIT one step of the initialiser writes exactly one entry, in ascending order, TABLE8 before TABLE16, with
the unguarded `iter_fn` of the index, and nothing else. One write a step is one of the two readings R192 allows (log
entry 3). -/
def Obligations.InitialiserWritesOneEntry : Prop :=
  (∀ s : State, s.rst = false → s.mode = .init → s.initDone < 256 → ∃ t, step s = .next t ∧
    (∀ x, t.table8.read x = if x = s.initDone then some ((iterFn (BitVec.ofNat 64 x)).setWidth 8) else s.table8.read x) ∧
    t = { s with table8 := t.table8, initDone := s.initDone + 1 }) ∧
  (∀ s : State, s.rst = false → s.mode = .init → 256 ≤ s.initDone → s.initDone < 65792 → ∃ t, step s = .next t ∧
    (∀ x, t.table16.read x =
      if x = s.initDone - 256 then some ((iterFn (BitVec.ofNat 64 x)).setWidth 8) else s.table16.read x) ∧
    t = { s with table16 := t.table16, initDone := s.initDone + 1 })

/-- R192, R70: while INIT lasts no command is accepted, no response is given, the status reads 0x00, and the step that
ends INIT changes nothing but MODE. That this step is one of its own, after the last write, so that MODE is still INIT
when that write is done, is the model's choice (log entry 3). -/
def Obligations.InitHoldsEveryCommand : Prop :=
  ∀ s : State, Inv s → s.rst = false → s.mode = .init → readStatus s = 0x00#8 ∧ ∃ t, step s = .next t ∧
    t.cmds = s.cmds ∧ t.responses = s.responses ∧ t.cause = .none ∧ t.fcmd = 0 ∧ t.fword = 0 ∧
    (s.initDone < 65792 → t.mode = .init ∧ readStatus t = 0x00#8) ∧
    (s.initDone = 65792 → t = { s with mode := .ready } ∧ readStatus t = 0x01#8)

/-- R193, R192: from a reset request in any state, after the reset step and the 65,793 steps of INIT, MODE is READY, the
record is clear, every table entry is the count of its index, the state is the same after every reset, and the held
packets are still presented. The number of steps is the model's (log entry 3), and so is it that the received responses
are kept (log entry 2) and that the request is consumed (log entry 11). -/
def Obligations.ResetLeadsToReady : Prop :=
  ∀ s : State, s.rst = true → ∃ t, run 65794 s = .next t ∧
    t.mode = .ready ∧ t.cause = .none ∧ t.fcmd = 0 ∧ t.fword = 0 ∧ readStatus t = 0x01#8 ∧
    TableBuilt 8 t.table8 256 ∧ TableBuilt 16 t.table16 65536 ∧
    t.table8 = builtTable 256 ∧ t.table16 = builtTable 65536 ∧
    t.initDone = 65792 ∧ t.rst = false ∧ t.cmds = s.cmds ∧ t.responses = s.responses

/-- R192: INIT always finishes, from any point of a build under way, as many steps later as entries are still to be
written, and one (log entry 3); it cannot fault. -/
def Obligations.InitFinishesFromAnyPoint : Prop :=
  ∀ s : State, Inv s → s.rst = false → s.mode = .init →
    (∀ k, k ≤ 65792 - s.initDone → ∃ t, run k s = .next t ∧ t.mode = .init ∧ t.initDone = s.initDone + k ∧ Inv t) ∧
    ∃ t, run (65793 - s.initDone) s = .next t ∧ t.mode = .ready ∧ t.cause = .none ∧ Inv t

/-- R106: the facts of the built tables: the entries at the ends and at powers of two, the histograms, the sums, the
first sixteen entries, and each TABLE16 entry as the sum of two TABLE8 entries. -/
def Obligations.BuiltTableFacts : Prop :=
  (builtTable 256).read 0 = some 0 ∧ (builtTable 256).read 255 = some 8 ∧
  (∀ j < 8, (builtTable 256).read (2 ^ j) = some 1) ∧
  ((List.range 9).map fun n => ((builtTable 256).filter fun c => c.2.toNat == n).length) =
    [1, 8, 28, 56, 70, 56, 28, 8, 1] ∧
  ((builtTable 256).map fun c => c.2.toNat).sum = 1024 ∧
  (builtTable 65536).read 0 = some 0 ∧ (builtTable 65536).read 65535 = some 16 ∧
  ((List.range 17).map fun n => ((builtTable 65536).filter fun c => c.2.toNat == n).length) =
    [1, 16, 120, 560, 1820, 4368, 8008, 11440, 12870, 11440, 8008, 4368, 1820, 560, 120, 16, 1] ∧
  ((builtTable 65536).map fun c => c.2.toNat).sum = 524288 ∧
  (∀ x, x < 65536 → ∃ a b : Entry, (builtTable 256).read (x % 256) = some a ∧ (builtTable 256).read (x / 256) = some b ∧
    ((builtTable 65536).read x).map BitVec.toNat = some (a.toNat + b.toNat)) ∧
  ((builtTable 256).take 16).map (fun c => c.2.toNat) = [0, 1, 1, 2, 1, 2, 2, 3, 1, 2, 2, 3, 2, 3, 3, 4] ∧
  ((builtTable 65536).take 16).map (fun c => c.2.toNat) = [0, 1, 1, 2, 1, 2, 2, 3, 1, 2, 2, 3, 2, 3, 3, 4]

/-! The iterative strategies (40_popcount_iterative.md) -/

/-- R82: the Iterated loop keeps `N + popcount(V) = popcount(w)`, runs `bitlen(w)` times, ends with V = 0, and returns
`popcount(w)`, for all 2^64 words; N never exceeds 64. -/
def Obligations.IterLoopCountsEveryWord : Prop :=
  ∀ w : Word, (∀ k ∈ iterTrace w, k.n.toNat + popcount k.v = popcount w ∧ k.n.toNat ≤ 64) ∧
    (iterTrace w).length = bitlen w ∧ bitlen w ≤ 64 ∧ (iterRun w).v = 0 ∧ (iterFn w).toNat = popcount w

/-- R84: one iteration of the Sparse loop clears the lowest set bit and nothing else, lowering the count by one; the loop
runs `popcount(w)` times, ends with V = 0, and returns `popcount(w)`, for all words. -/
def Obligations.SparseLoopClearsLowestBit : Prop :=
  (∀ (k : Work) (j : Nat), k.v.getLsbD j = true → (∀ i < j, k.v.getLsbD i = false) →
    (∀ i, (sparseBody k).v.getLsbD i = (k.v.getLsbD i && decide (i ≠ j))) ∧
    popcount (sparseBody k).v + 1 = popcount k.v) ∧
  (∀ w : Word, (sparseTrace w).length = popcount w ∧ popcount w ≤ 64 ∧ (sparseRun w).v = 0 ∧
    (sparseFn w).toNat = popcount w)

/-- R86: the Dense loop runs on the complement `64 - popcount(w)` times and returns `popcount(w)`, for all words; the
complement of a word of the domain has bit 63 set. -/
def Obligations.DenseCountsByComplement : Prop :=
  ∀ w : Word, popcount (~~~w) = 64 - popcount w ∧ (sparseTrace (~~~w)).length = 64 - popcount w ∧
    (denseFn w).toNat = popcount w ∧ (w.getLsbD 63 = false → (~~~w).getLsbD 63 = true)

/-- R83: POPCNT.ITER. The encoding, the effect on every operand in READY under either value of STRICT_DOMAIN, the
value of this hardware, the corner cases and the example's trace. -/
def Obligations.PopcntIterResult : Prop :=
  (∀ w, encode (.popcntIter w) = mkPacket 0b0000#4 w) ∧
  (∀ (w : Word) (s : State), s.mode = .ready → 0 < w.toInt → exec (.popcntIter w) s =
    .next { s with responses := s.responses ++ [BitVec.ofNat 64 (popcount w)] }) ∧
  (∀ (w : Word) (s : State), s.mode = .ready → w.toInt ≤ 0 → exec (.popcntIter w) s =
    .next { s with mode := .faulted, cause := .domainViolation, fcmd := 0b0000#4, fword := w }) ∧
  (∀ (w : Word) (s : State), s.mode = .ready → execPopcntIterWith false w s =
    .next { s with responses := s.responses ++ [BitVec.ofNat 64 (popcount w)] }) ∧
  ((iterTrace 1).length = 1 ∧ iterFn 1 = 1 ∧ (iterTrace 0x7FFFFFFFFFFFFFFF).length = 63 ∧
    iterFn 0x7FFFFFFFFFFFFFFF = 63 ∧ (iterTrace 0x4000000000000000).length = 63 ∧ iterFn 0x4000000000000000 = 1 ∧
    (iterTrace 0).length = 0 ∧ iterFn 0 = 0 ∧ ∀ w : Word, w.getLsbD 63 = true → (iterTrace w).length = 64) ∧
  iterTrace 0xB5 = [⟨0x5A, 1⟩, ⟨0x2D, 1⟩, ⟨0x16, 2⟩, ⟨0x0B, 2⟩, ⟨0x05, 3⟩, ⟨0x02, 4⟩, ⟨0x01, 4⟩, ⟨0x00, 5⟩]

/-- R85: POPCNT.SPARSE. The encoding, the effect on every operand in READY under either value of STRICT_DOMAIN, the
corner cases and the example's trace. -/
def Obligations.PopcntSparseResult : Prop :=
  (∀ w, encode (.popcntSparse w) = mkPacket 0b0001#4 w) ∧
  (∀ (w : Word) (s : State), s.mode = .ready → 0 < w.toInt → exec (.popcntSparse w) s =
    .next { s with responses := s.responses ++ [BitVec.ofNat 64 (popcount w)] }) ∧
  (∀ (w : Word) (s : State), s.mode = .ready → w.toInt ≤ 0 → exec (.popcntSparse w) s =
    .next { s with mode := .faulted, cause := .domainViolation, fcmd := 0b0001#4, fword := w }) ∧
  (∀ (w : Word) (s : State), s.mode = .ready → execPopcntSparseWith false w s =
    .next { s with responses := s.responses ++ [BitVec.ofNat 64 (popcount w)] }) ∧
  ((∀ j < 64, (sparseTrace (BitVec.twoPow 64 j)).length = 1 ∧ sparseFn (BitVec.twoPow 64 j) = 1) ∧
    (sparseTrace 0x7FFFFFFFFFFFFFFF).length = 63 ∧ sparseFn 0x7FFFFFFFFFFFFFFF = 63 ∧ sparseFn 0 = 0 ∧
    (sparseTrace 0x8000000000000001).map Work.v = [0x8000000000000000, 0] ∧ sparseFn 0x8000000000000001 = 2 ∧
    sparseFn 0xFFFFFFFFFFFFFFFF = 64) ∧
  (sparseTrace 0xB5).map Work.v = [0xB4, 0xB0, 0xA0, 0x80, 0x00]

/-- R87: POPCNT.DENSE. The encoding, the effect on every operand in READY under either value of STRICT_DOMAIN (the guard
tests the operand, not its complement), the corner cases and the example's trace. -/
def Obligations.PopcntDenseResult : Prop :=
  (∀ w, encode (.popcntDense w) = mkPacket 0b0010#4 w) ∧
  (∀ (w : Word) (s : State), s.mode = .ready → 0 < w.toInt → exec (.popcntDense w) s =
    .next { s with responses := s.responses ++ [BitVec.ofNat 64 (popcount w)] }) ∧
  (∀ (w : Word) (s : State), s.mode = .ready → w.toInt ≤ 0 → exec (.popcntDense w) s =
    .next { s with mode := .faulted, cause := .domainViolation, fcmd := 0b0010#4, fword := w }) ∧
  (∀ (w : Word) (s : State), s.mode = .ready → execPopcntDenseWith false w s =
    .next { s with responses := s.responses ++ [BitVec.ofNat 64 (popcount w)] }) ∧
  ((sparseTrace (~~~(0x7FFFFFFFFFFFFFFF : Word))).length = 1 ∧ denseFn 0x7FFFFFFFFFFFFFFF = 63 ∧
    (sparseTrace (~~~(1 : Word))).length = 63 ∧ denseFn 1 = 1 ∧
    (∀ w : Word, w.getLsbD 63 = false → 1 ≤ (sparseTrace (~~~w)).length) ∧
    (sparseTrace (~~~(0xFFFFFFFFFFFFFFFF : Word))).length = 0 ∧ denseFn 0xFFFFFFFFFFFFFFFF = 64 ∧
    (sparseTrace (~~~(0 : Word))).length = 64 ∧ denseFn 0 = 0) ∧
  ((sparseTrace (~~~(0x7FFFFFFFFFFFFF0F : Word))).map Work.v = [0x80000000000000E0, 0x80000000000000C0,
    0x8000000000000080, 0x8000000000000000, 0] ∧ denseFn 0x7FFFFFFFFFFFFF0F = 59)

/-- R8, R80, R81: the guard is on `signed(w) <= 0`, the operand's sign and zero-ness alone; it stands on the three
iterative commands alone, under STRICT_DOMAIN alone. -/
def Obligations.GuardOnIterativeCommandsOnly : Prop :=
  (∀ w : Word, (nonPositive w = true ↔ w.toInt ≤ 0) ∧ (nonPositive w = false ↔ w ≠ 0 ∧ w.getLsbD 63 = false)) ∧
  (∀ (i : Instr) (s t : State), exec i s = .next t → t.mode = .faulted →
    i.code.toNat < 3 ∧ Config.strictDomain = true ∧ (i.operand = 0 ∨ i.operand.getLsbD 63 = true)) ∧
  (∀ (w : Word) (s : State), s.mode = .ready → ∀ e ∈ [execPopcntIterWith, execPopcntSparseWith, execPopcntDenseWith],
    ∃ t, e true w s = .next t ∧ (t.mode = .faulted ↔ w = 0 ∨ w.getLsbD 63 = true)) ∧
  (∀ (w : Word) (s : State), s.mode = .ready → ∀ e ∈ [execPopcntIterWith, execPopcntSparseWith, execPopcntDenseWith],
    ∃ t, e false w s = .next t ∧ t.mode = .ready)

/-! The table strategies (20_memory.md, 41_popcount_table.md) -/

/-- R41: the lanes of a word are its bits cut at multiples of 8 and of 16, taken low to high, a halfword lane is two byte
lanes, its TABLE16 entry is the sum of their TABLE8 entries, and the order of the lanes changes no sum. -/
def Obligations.LanesPartitionTheWord : Prop :=
  (∀ (w : Word) (j i : Nat), j < 8 → i < 8 → (byteLane w j).getLsbD i = w.getLsbD (8 * j + i)) ∧
  (∀ (w : Word) (j i : Nat), j < 4 → i < 16 → (halfLane w j).getLsbD i = w.getLsbD (16 * j + i)) ∧
  (∀ (w : Word) (j : Nat), j < 4 → halfLane w j = byteLane w (2 * j + 1) ++ byteLane w (2 * j)) ∧
  (∀ (t8 t16 : Memory) (w : Word) (j : Nat), TableBuilt 8 t8 256 → TableBuilt 16 t16 65536 → j < 4 →
    ∃ a b : Entry, t8.read (byteLane w (2 * j)).toNat = some a ∧ t8.read (byteLane w (2 * j + 1)).toNat = some b ∧
      t16.read (halfLane w j).toNat = some (a + b)) ∧
  (∀ w : Word, byteIndices w = [0, 1, 2, 3, 4, 5, 6, 7].map (fun j => (byteLane w j).toNat) ∧
    halfIndices w = [0, 1, 2, 3].map (fun j => (halfLane w j).toNat)) ∧
  (∀ (t : Memory) (is js : List Nat) (n : Count), is.Perm js → sumEntries t is n = sumEntries t js n)

/-- R101, R103: the sums of eight TABLE8 entries and of four TABLE16 entries are `popcount(w)`, for all words, given the
invariant of R28 on the tables. -/
def Obligations.TableSumsCountEveryWord : Prop :=
  (∀ (t : Memory) (w : Word), TableBuilt 8 t 256 → (byteIndices w).length = 8 ∧
    (∀ i ∈ byteIndices w, ∃ e, t.read i = some e) ∧ ∃ n, tab8Fn t w = some n ∧ n.toNat = popcount w) ∧
  (∀ (t : Memory) (w : Word), TableBuilt 16 t 65536 → (halfIndices w).length = 4 ∧
    (∀ i ∈ halfIndices w, ∃ e, t.read i = some e) ∧ ∃ n, tab16Fn t w = some n ∧ n.toNat = popcount w)

/-- R102: POPCNT.BYTETAB. The encoding, the effect on every operand in READY with TABLE8 built, the corner cases and the
example's lanes and entries. -/
def Obligations.PopcntBytetabResult : Prop :=
  (∀ w, encode (.popcntBytetab w) = mkPacket 0b0011#4 w) ∧
  (∀ (w : Word) (s : State), s.mode = .ready → TableBuilt 8 s.table8 256 → exec (.popcntBytetab w) s =
    .next { s with responses := s.responses ++ [BitVec.ofNat 64 (popcount w)] }) ∧
  byteIndices 0 = [0, 0, 0, 0, 0, 0, 0, 0] ∧
  byteIndices 0xFFFFFFFFFFFFFFFF = [255, 255, 255, 255, 255, 255, 255, 255] ∧
  popcount (0xFFFFFFFFFFFFFFFF : Word) = 64 ∧
  byteIndices 0x8000000000000001 = [1, 0, 0, 0, 0, 0, 0, 0x80] ∧ popcount (0x8000000000000001 : Word) = 2 ∧
  byteIndices 0x0123456789ABCDEF = [0xEF, 0xCD, 0xAB, 0x89, 0x67, 0x45, 0x23, 0x01] ∧
  (byteIndices 0x0123456789ABCDEF).map (fun i => (builtTable 256).read i) =
    [some 7, some 5, some 5, some 3, some 5, some 3, some 3, some 1] ∧
  popcount (0x0123456789ABCDEF : Word) = 32

/-- R104: POPCNT.HALFTAB. The encoding, the effect on every operand in READY with TABLE16 built, the corner cases and the
example's lanes and entries. -/
def Obligations.PopcntHalftabResult : Prop :=
  (∀ w, encode (.popcntHalftab w) = mkPacket 0b0100#4 w) ∧
  (∀ (w : Word) (s : State), s.mode = .ready → TableBuilt 16 s.table16 65536 → exec (.popcntHalftab w) s =
    .next { s with responses := s.responses ++ [BitVec.ofNat 64 (popcount w)] }) ∧
  halfIndices 0 = [0, 0, 0, 0] ∧ halfIndices 0xFFFFFFFFFFFFFFFF = [65535, 65535, 65535, 65535] ∧
  popcount (0xFFFFFFFFFFFFFFFF : Word) = 64 ∧
  halfIndices 0x8000000000000001 = [1, 0, 0, 0x8000] ∧ popcount (0x8000000000000001 : Word) = 2 ∧
  halfIndices 0x0123456789ABCDEF = [0xCDEF, 0x89AB, 0x4567, 0x0123] ∧
  (halfIndices 0x0123456789ABCDEF).map builtEntry = [12, 8, 8, 4] ∧
  popcount (0x0123456789ABCDEF : Word) = 32

/-- R195: a table command that would read an entry with no value is given no meaning: it stops by name, and so does every
command in INIT. That the stop is this refusal and this fault is the model's (log entries 4 and 7). -/
def Obligations.UnwrittenEntryHasNoMeaning : Prop :=
  (∀ (w : Word) (s : State), s.mode = .ready → (∃ i ∈ byteIndices w, s.table8.read i = none) →
    exec (.popcntBytetab w) s = .refused .unwrittenTableEntry) ∧
  (∀ (w : Word) (s : State), s.mode = .ready → (∃ i ∈ halfIndices w, s.table16.read i = none) →
    exec (.popcntHalftab w) s = .refused .unwrittenTableEntry) ∧
  (∀ (i : Instr) (s : State), s.mode = .init → exec i s = .fault .heldInInit)

/-! Folding (42_popcount_folding.md) -/

/-- R120: the masks by their group rule, their values, and their laws. -/
def Obligations.MasksFollowGroupRule : Prop :=
  ([0, 1, 2, 3, 4, 5].map fun k => (lowMask k, highMask k)) =
    [(0x5555555555555555, 0xAAAAAAAAAAAAAAAA), (0x3333333333333333, 0xCCCCCCCCCCCCCCCC),
      (0x0F0F0F0F0F0F0F0F, 0xF0F0F0F0F0F0F0F0), (0x00FF00FF00FF00FF, 0xFF00FF00FF00FF00),
      (0x0000FFFF0000FFFF, 0xFFFF0000FFFF0000), (0x00000000FFFFFFFF, 0xFFFFFFFF00000000)] ∧
  ∀ k : Fin 6, (∀ i < 64, (lowMask k).getLsbD i = !(i.testBit k.val)) ∧ highMask k = ~~~(lowMask k) ∧
    lowMask k &&& highMask k = 0 ∧ lowMask k ||| highMask k = 0xFFFFFFFFFFFFFFFF ∧
    highMask k = lowMask k <<< 2 ^ k.val ∧ lowMask k = highMask k >>> 2 ^ k.val ∧
    popcount (lowMask k) = 32 ∧ popcount (highMask k) = 32

/-- R121: a folding round is the masked sum, and the two other spellings of it return the same value for every word. -/
def Obligations.FoldRoundSpellingsAgree : Prop :=
  (∀ (v : Word) (k : Fin 6), foldRound v k = (v &&& lowMask k) + ((v >>> 2 ^ k.val) &&& lowMask k) ∧
    foldRound v k = (v &&& lowMask k) + ((v &&& highMask k) >>> 2 ^ k.val)) ∧
  (∀ v : Word, foldRound v 0 = v - ((v >>> 1) &&& lowMask 0))

/-- R124: after round k every lane of width 2^(k+1) holds the count of the operand bits at its own positions, so no carry
crosses a lane; the byte lanes after round 2 and the halfword lanes after round 3 are the table entries. -/
def Obligations.FoldLanesHoldTheirOwnCounts : Prop :=
  ∀ w : Word,
    (∀ (k : Fin 6) (m : Nat), m < 2 ^ (5 - k.val) →
      ((foldRounds w (Config.roundOrder.take (k.val + 1))).extractLsb' (m * 2 ^ (k.val + 1)) (2 ^ (k.val + 1))).toNat =
        popcount (w.extractLsb' (m * 2 ^ (k.val + 1)) (2 ^ (k.val + 1)))) ∧
    (∀ j < 8, (builtTable 256).read (byteLane w j).toNat = some (byteLane (foldRounds w [0, 1, 2]) j)) ∧
    (∀ j < 4, ((builtTable 65536).read (halfLane w j).toNat).map (BitVec.setWidth 16) =
      some (halfLane (foldRounds w [0, 1, 2, 3]) j))

/-- R122, R125: after the six rounds, in ascending order, V is the count itself, so taking V[6:0] loses nothing; the
rounds do not commute. -/
def Obligations.FoldEndsWithTheCount : Prop :=
  (∀ w : Word, foldRounds w [0, 1, 2, 3, 4, 5] = BitVec.ofNat 64 (popcount w) ∧
    (foldRounds w [0, 1, 2, 3, 4, 5]).extractLsb' 7 57 = 0 ∧
    foldFn w = (foldRounds w [0, 1, 2, 3, 4, 5]).extractLsb' 0 7 ∧
    zext64 (foldFn w) = foldRounds w [0, 1, 2, 3, 4, 5] ∧ (foldFn w).toNat = popcount w) ∧
  ∃ w : Word, foldRounds w [5, 4, 3, 2, 1, 0] ≠ foldRounds w [0, 1, 2, 3, 4, 5]

/-- R123: POPCNT.FOLD. The encoding, the effect on every operand in READY whatever the tables hold, the corner cases and
the example, round by round. -/
def Obligations.PopcntFoldResult : Prop :=
  (∀ w, encode (.popcntFold w) = mkPacket 0b0101#4 w) ∧
  (∀ (w : Word) (s : State), s.mode = .ready → exec (.popcntFold w) s =
    .next { s with responses := s.responses ++ [BitVec.ofNat 64 (popcount w)] }) ∧
  ([1, 2, 3, 4, 5, 6].map fun k => foldRounds 0 (Config.roundOrder.take k)) = [0, 0, 0, 0, 0, 0] ∧
  ([1, 2, 3, 4, 5, 6].map fun k => foldRounds 0xFFFFFFFFFFFFFFFF (Config.roundOrder.take k)) =
    [0xAAAAAAAAAAAAAAAA, 0x4444444444444444, 0x0808080808080808, 0x0010001000100010, 0x0000002000000020, 0x40] ∧
  ([1, 2, 3, 4, 5, 6].map fun k => foldRounds 0x8000000000000001 (Config.roundOrder.take k)) =
    [0x4000000000000001, 0x1000000000000001, 0x0100000000000001, 0x0001000000000001, 0x0000000100000001, 0x2] ∧
  ([1, 2, 3, 4, 5, 6].map fun k => foldRounds 0x0123456789ABCDEF (Config.roundOrder.take k)) =
    [0x011245564556899A, 0x0112122312232334, 0x0103030503050507, 0x000400080008000C, 0x0000000C00000014, 0x20]

/-! Bit reversal (43_bit_reversal.md) -/

/-- R135: a swap stage permutes the bits by flipping bit k of their index, keeps the count, and undoes itself. -/
def Obligations.SwapStageFlipsOneIndexBit : Prop :=
  ∀ (k : Fin 6) (v : Word), (∀ i < 64, (swapStage v k).getLsbD i = v.getLsbD (i ^^^ 2 ^ k.val)) ∧
    popcount (swapStage v k) = popcount v ∧ swapStage (swapStage v k) k = v

/-- R133: any two stages commute, and the six stages in any order give the same word. -/
def Obligations.SwapStagesCommute : Prop :=
  (∀ (j k : Fin 6) (v : Word), swapStage (swapStage v k) j = swapStage (swapStage v j) k) ∧
  (∀ (ks : List (Fin 6)) (w : Word), ks.Perm [5, 4, 3, 2, 1, 0] → swapStages w ks = revFn w)

/-- R131: the six stages of widths 32 to 1 reverse the word. -/
def Obligations.SwapNetworkReversesTheWord : Prop :=
  ∀ w : Word, revFn w = swapStages w [5, 4, 3, 2, 1, 0] ∧ (∀ i < 64, (revFn w).getLsbD i = w.getLsbD (63 - i)) ∧
    revFn w = bitrev w

/-- R132: REVBITS. The encoding, the effect on every operand in READY whatever the tables hold, the corner cases and the
example, stage by stage. -/
def Obligations.RevbitsResult : Prop :=
  (∀ w, encode (.revbits w) = mkPacket 0b1000#4 w) ∧
  (∀ (w : Word) (s : State), s.mode = .ready → exec (.revbits w) s =
    .next { s with responses := s.responses ++ [bitrev w] }) ∧
  revFn 0 = 0 ∧ revFn 0xFFFFFFFFFFFFFFFF = 0xFFFFFFFFFFFFFFFF ∧ revFn 1 = 0x8000000000000000 ∧
  revFn 0x8000000000000000 = 1 ∧
  ([1, 2, 3, 4, 5, 6].map fun k => swapStages 0x8000000000000001 (Config.stageOrder.take k)) =
    [0x0000000180000000, 0x0001000000008000, 0x0100000000000080, 0x1000000000000008, 0x4000000000000002,
      0x8000000000000001] ∧
  (∀ w : Word, revFn (revFn w) = w) ∧
  ([1, 2, 3, 4, 5, 6].map fun k => swapStages 0x0123456789ABCDEF (Config.stageOrder.take k)) =
    [0x89ABCDEF01234567, 0xCDEF89AB45670123, 0xEFCDAB8967452301, 0xFEDCBA9876543210, 0xFB73EA62D951C840,
      0xF7B3D591E6A2C480]

/-- R143: reversing twice gives the word back, as a function and as two commands, the second on the first's response. -/
def Obligations.ReversalIsAnInvolution : Prop :=
  (∀ w : Word, revFn (revFn w) = w) ∧
  (∀ (w : Word) (s : State), s.mode = .ready → ∃ (r : Word) (t u : State),
    exec (.revbits w) s = .next t ∧ t.responses = s.responses ++ [r] ∧
    exec (.revbits r) t = .next u ∧ u.responses = s.responses ++ [r, w])

/-- R144, R145, R146: the fixed points of the reversal are the palindromic words, 2^32 in all, with 0, all-ones and
0x8000000000000001 among them; a single bit goes to the mirrored position, so the two end bits change places; REVBITS
responds the reversal in READY. -/
def Obligations.ReversalFixedPointsAndSingleBits : Prop :=
  revFn 0 = 0 ∧ revFn 0xFFFFFFFFFFFFFFFF = 0xFFFFFFFFFFFFFFFF ∧
  (∀ w : Word, revFn w = w ↔ ∀ i < 64, w.getLsbD i = w.getLsbD (63 - i)) ∧
  Nat.card { w : Word // revFn w = w } = 2 ^ 32 ∧
  (∀ i < 64, revFn ((1 : Word) <<< i) = (1 : Word) <<< (63 - i)) ∧
  revFn 0x8000000000000000 = 0x0000000000000001 ∧ revFn 0x0000000000000001 = 0x8000000000000000 ∧
  revFn 0x8000000000000001 = 0x8000000000000001 ∧
  ∀ (w : Word) (s : State), s.mode = .ready → exec (.revbits w) s = .next (respond (revFn w) s)

/-! Properties across commands (44_properties.md) -/

/-- R140: at the level of the datapath the six strategies agree on all 2^64 words, the table functions given the tables
of R28. -/
def Obligations.SixStrategiesAgree : Prop :=
  ∀ (t8 t16 : Memory) (w : Word), TableBuilt 8 t8 256 → TableBuilt 16 t16 65536 →
    (iterFn w).toNat = popcount w ∧ sparseFn w = iterFn w ∧ denseFn w = iterFn w ∧
    tab8Fn t8 w = some (iterFn w) ∧ tab16Fn t16 w = some (iterFn w) ∧ foldFn w = iterFn w

/-- R140: any two population-count commands that both answer the same operand without a fault give the same response,
`popcount(w)`. On a strictly positive operand all six do, on a non-positive one the table commands and POPCNT.FOLD alone
do, without STRICT_DOMAIN all six do on every operand, and the datapath functions agree on every word. -/
def Obligations.CountCommandsAgreeOnSharedDomain : Prop :=
  ∀ (s : State) (w : Word), Serving s →
    (∀ i ∈ [Instr.popcntIter w, .popcntSparse w, .popcntDense w, .popcntBytetab w, .popcntHalftab w, .popcntFold w],
      (∀ t, exec i s = .next t → t.mode = .ready → t = respond (BitVec.ofNat 64 (popcount w)) s) ∧
      (0 < w.toInt → exec i s = .next (respond (BitVec.ofNat 64 (popcount w)) s))) ∧
    (∀ i ∈ [Instr.popcntIter w, .popcntSparse w, .popcntDense w], w.toInt ≤ 0 →
      ∃ t, exec i s = .next t ∧ t.mode = .faulted) ∧
    (∀ i ∈ [Instr.popcntBytetab w, .popcntHalftab w, .popcntFold w],
      exec i s = .next (respond (BitVec.ofNat 64 (popcount w)) s)) ∧
    (∀ e ∈ [execPopcntIterWith, execPopcntSparseWith, execPopcntDenseWith],
      e false w s = .next (respond (BitVec.ofNat 64 (popcount w)) s)) ∧
    (∀ f ∈ [iterFn, sparseFn, denseFn, foldFn], (f w).toNat = popcount w) ∧
    (∀ n ∈ [tab8Fn s.table8 w, tab16Fn s.table16 w], n.map BitVec.toNat = some (popcount w))

/-- R142: in READY the table entries are the iterated counts of their indices, and the table commands show it. -/
def Obligations.TablesShowTheirEntries : Prop :=
  ∀ s : State, Serving s →
    (∀ x < 256, s.table8.read x = some ((iterFn (BitVec.ofNat 64 x)).setWidth 8)) ∧
    (∀ x < 65536, s.table16.read x = some ((iterFn (BitVec.ofNat 64 x)).setWidth 8)) ∧
    (∀ b : BitVec 8, byteIndices (b.setWidth 64) = [b.toNat, 0, 0, 0, 0, 0, 0, 0] ∧
      exec (.popcntBytetab (b.setWidth 64)) s = .next (respond (BitVec.ofNat 64 (popcount b)) s)) ∧
    (∀ h : BitVec 16, halfIndices (h.setWidth 64) = [h.toNat, 0, 0, 0] ∧
      exec (.popcntHalftab (h.setWidth 64)) s = .next (respond (BitVec.ofNat 64 (popcount h)) s))

/-- R147: reversal keeps the count, so a count command that answers both a word and its reversal answers both alike; the
reversal of an odd word has bit 63 set, so POPCNT.ITER, SPARSE and DENSE turn it away. -/
def Obligations.ReversalKeepsTheCount : Prop :=
  (∀ w : Word, popcount (revFn w) = popcount w) ∧
  (∀ w : Word, w.getLsbD 0 = true → (revFn w).getLsbD 63 = true ∧
    ∀ (s : State), s.mode = .ready → ∀ f ∈ [Instr.popcntIter, .popcntSparse, .popcntDense],
      ∃ t, exec (f (revFn w)) s = .next t ∧ t.mode = .faulted) ∧
  (∀ (w : Word) (s : State), Serving s → ∀ f ∈ [Instr.popcntIter, .popcntSparse, .popcntDense, .popcntBytetab,
    .popcntHalftab, .popcntFold], ∀ t u, exec (f w) s = .next t → exec (f (revFn w)) s = .next u →
      t.mode = .ready → u.mode = .ready → t = u)

/-- R148, R141: every response of a population-count command is at most 64, 0 for the zero word alone and 64 for the
all-ones word alone, and of the three guarded commands 1 to 63; the complement has the other bits; the known values of
the source, with the operands the strict commands turn away. -/
def Obligations.RangeOfCountsAndKnownValues : Prop :=
  (∀ w : Word, popcount w ≤ 64 ∧ (popcount w = 0 ↔ w = 0) ∧ (popcount w = 64 ↔ w = 0xFFFFFFFFFFFFFFFF) ∧
    popcount (~~~w) = 64 - popcount w ∧ (0 < w.toInt → 1 ≤ popcount w ∧ popcount w ≤ 63)) ∧
  (∀ (s t : State) (w : Word), Serving s →
    ∀ i ∈ [Instr.popcntIter w, .popcntSparse w, .popcntDense w, .popcntBytetab w, .popcntHalftab w, .popcntFold w],
    exec i s = .next t → t.mode = .ready → ∃ r : Word, t.responses = s.responses ++ [r] ∧ r.toNat ≤ 64 ∧
      (r = 0 ↔ w = 0) ∧ (r = 64 ↔ w = 0xFFFFFFFFFFFFFFFF) ∧ (i.code.toNat < 3 → 1 ≤ r.toNat ∧ r.toNat ≤ 63)) ∧
  [(0 : Word), 1, 0xFFFFFFFFFFFFFFFF, 0xFF, 0xAAAAAAAAAAAAAAAA].map popcount = [0, 1, 64, 8, 32] ∧
  [(0 : Word), 1, 0xFFFFFFFFFFFFFFFF, 0xFF, 0xAAAAAAAAAAAAAAAA].map nonPositive = [true, false, true, false, true]

/-! Faults (60_exceptions.md) -/

/-- R64, R161: a packet with a reserved code, whatever its operand, raises IllegalCommand in READY: the record is its own
code and operand, no response is produced, and nothing else of the engine changes. A record of IllegalCommand names a
reserved code. What becomes of the packets on the port is left out here (log entry 18). -/
def Obligations.ReservedCodeRaisesIllegalCommand : Prop :=
  (∀ s : State, Inv s → s.cause = .illegalCommand → s.fcmd.toNat ∈ [6, 7, 9, 10, 11, 12, 13, 14, 15]) ∧
  ∀ (s : State) (p : Packet) (ps : List Packet), s.rst = false → s.mode = .ready → s.cmds = p :: ps →
    (packetCode p).toNat ∈ [6, 7, 9, 10, 11, 12, 13, 14, 15] →
    ∃ t, step s = .next t ∧ { t with cmds := s.cmds } = { s with
      mode := .faulted
      cause := .illegalCommand
      fcmd := packetCode p
      fword := packetOperand p }

/-- R162: a packet with code 0, 1 or 2 and a non-positive operand raises DomainViolation in READY, since this hardware is
strict: the record is its own code and operand, no response is produced, and nothing else of the engine changes. A
record of DomainViolation names such a packet; without STRICT_DOMAIN the fault is never raised. What becomes of the
packets on the port is left out here (log entry 18). -/
def Obligations.NonPositiveOperandRaisesDomainViolation : Prop :=
  (∀ s : State, Inv s → s.cause = .domainViolation →
    s.fcmd.toNat ∈ [0, 1, 2] ∧ (s.fword = 0 ∨ s.fword.getLsbD 63 = true)) ∧
  (∀ (w : Word) (s t : State), ∀ e ∈ [execPopcntIterWith, execPopcntSparseWith, execPopcntDenseWith],
    e false w s = .next t → t.mode = .ready) ∧
  ∀ (s : State) (p : Packet) (ps : List Packet), s.rst = false → s.mode = .ready → s.cmds = p :: ps →
    (packetCode p).toNat ∈ [0, 1, 2] → (packetOperand p = 0 ∨ (packetOperand p).getLsbD 63 = true) →
    ∃ t, step s = .next t ∧ { t with cmds := s.cmds } = { s with
      mode := .faulted
      cause := .domainViolation
      fcmd := packetCode p
      fword := packetOperand p }

/-- R166, R167: a step that ends in a fault from READY has no other effect on the engine than the record and the phase; the
record together is the faulting packet; no response is produced and no table entry changes. -/
def Obligations.FaultsArePrecise : Prop :=
  ∀ (s t : State), s.rst = false → s.mode = .ready → step s = .next t → t.mode = .faulted →
    (∃ ps, s.cmds = mkPacket t.fcmd t.fword :: ps) ∧ t.responses = s.responses ∧
      (∀ x, t.table8.read x = s.table8.read x) ∧ (∀ x, t.table16.read x = s.table16.read x) ∧
      t.initDone = s.initDone ∧ t.rst = false ∧
      ((t.cause = .illegalCommand ∧ legalCode t.fcmd = false) ∨
        (t.cause = .domainViolation ∧ t.fcmd.toNat < 3 ∧ (t.fword = 0 ∨ t.fword.getLsbD 63 = true)))

/-- R168, R169, R170: in FAULTED, with no reset requested, nothing is accepted and nothing changes for as long as it
lasts, the record included; only a reset leaves FAULTED, and it clears the record. R198, R199: in READY with no packet
presented nothing changes either. That a step in these two states answers the same state is the model's form of no step
(log entry 6). -/
def Obligations.FaultedHoldsUntilReset : Prop :=
  (∀ s : State, s.rst = false → s.mode = .ready → s.cmds = [] → ∀ k, run k s = .next s) ∧
  (∀ s : State, s.rst = false → s.mode = .faulted → ∀ k, run k s = .next s) ∧
  (∀ s t : State, step s = .next t → s.mode = .faulted → t.mode ≠ .faulted →
    s.rst = true ∧ t.mode = .init ∧ t.cause = .none ∧ t.fcmd = 0 ∧ t.fword = 0)

/-- R22, R23, R24: CAUSE, FCMD and FWORD change at fault entry, from READY, and at reset, and nowhere else. -/
def Obligations.RecordWrittenAtFaultEntryOnly : Prop :=
  ∀ s t : State, step s = .next t → s.rst = false →
    (t.cause = s.cause ∧ t.fcmd = s.fcmd ∧ t.fword = s.fword) ∨
    (s.mode = .ready ∧ t.mode = .faulted ∧ t.cause ≠ .none)

/-- R21: the transitions of MODE are exactly reset, the end of INIT, and a fault in READY. That INIT ends in the step
after the counter has reached 65,792 is the model's choice (log entry 3). -/
def Obligations.ModeTransitions : Prop :=
  ∀ s t : State, Inv s → step s = .next t →
    (s.rst = true ∧ t.mode = .init) ∨
    (s.rst = false ∧ t.mode = s.mode) ∨
    (s.rst = false ∧ s.mode = .init ∧ s.initDone = 65792 ∧ t.mode = .ready) ∨
    (s.rst = false ∧ s.mode = .ready ∧ t.mode = .faulted ∧ t.cause ≠ .none)

/-- R25: STATUS is the three fields side by side, and in every state of the invariant it is one of the fourteen legal
values. -/
def Obligations.StatusIsLegal : Prop :=
  (∀ s : State, (readStatus s).extractLsb' 0 2 = modeCode s.mode ∧ (readStatus s).extractLsb' 2 2 = causeCode s.cause ∧
    (readStatus s).extractLsb' 4 4 = s.fcmd) ∧
  (∀ s : State, Inv s → readStatus s ∈ legalStatus) ∧
  (∀ s : State, Inv s → s.mode = .init → readStatus s = 0x00#8) ∧
  (∀ s : State, Inv s → s.mode = .ready → readStatus s = 0x01#8)

/-! The machine as a whole (10_state.md, 20_memory.md, 30_encoding.md, 70_reset_and_hazards.md) -/

/-- The invariant holds at reset. Its progress counter is the model's (log entry 3). -/
def Obligations.InvariantAtReset : Prop := Inv State.reset

/-- Every step keeps the invariant: the tables hold exactly what has been written so far, complete outside INIT, and the
fault record is one of R160's. How far the build has come is told by the model's counter (log entry 3). -/
def Obligations.InvariantKeptByEveryStep : Prop :=
  ∀ s t : State, Inv s → step s = .next t → Inv t

/-- R28, R45: outside INIT every entry of both tables is written and is the count of its index, and no step but a reset
changes any of them. -/
def Obligations.TablesCompleteAndFrozen : Prop :=
  ∀ s : State, Inv s → s.mode ≠ .init →
    (∀ x : BitVec 8, s.table8.read x.toNat = some (BitVec.ofNat 8 (popcount x))) ∧
    (∀ x : BitVec 16, s.table16.read x.toNat = some (BitVec.ofNat 8 (popcount x))) ∧
    (∀ t, step s = .next t → s.rst = false → t.table8 = s.table8 ∧ t.table16 = s.table16)

/-- From any state of the invariant the machine never stops: every step, and every run, answers a next state (R163, R192,
R198: nothing else faults, INIT finishes, every command ends). That a step answers a next state, the same one, in FAULTED
and in READY with no packet presented, where the spec has no step, is the model's choice (log entry 6). -/
def Obligations.EngineNeverStops : Prop :=
  (∀ s : State, Inv s → ∃ t, step s = .next t) ∧
  (∀ (s : State) (k : Nat), Inv s → ∃ t, run k s = .next t ∧ Inv t)

/-- R70: outside READY no command is accepted, whichever it is. The named faults are the model's form of a hold (log
entry 7). The last clause covers the step that honours a reset, whose keeping of the received responses is the model's
choice (log entry 2), and the step in FAULTED, where the spec has none (log entry 6). -/
def Obligations.CommandsHeldOutsideReady : Prop :=
  (∀ (i : Instr) (s : State), s.mode = .init → exec i s = .fault .heldInInit) ∧
  (∀ (i : Instr) (s : State), s.mode = .faulted → exec i s = .fault .heldInFaulted) ∧
  (∀ s t : State, s.mode ≠ .ready → step s = .next t → t.cmds = s.cmds ∧ t.responses = s.responses)

/-- R70: in READY one step takes the packet on the port and executes the command it decodes to. That the packet is then
gone from the port is the model's reading (log entry 18). A packet placed on the port of the state INIT leaves is the
next one run; that `withFetchWord` places it there is the model's choice (log entry 8). -/
def Obligations.StepRunsThePresentedCommand : Prop :=
  (∀ (s : State) (p : Packet) (ps : List Packet) (i : Instr), s.rst = false → s.mode = .ready → s.cmds = p :: ps →
    decode p = .legal i → step s = exec i { s with cmds := ps }) ∧
  (∀ (s : State) (i : Instr), step (s.withFetchWord 68 (encode i).toNat) = exec i { booted s with cmds := s.cmds })

/-- R32, R35, R45: what a command leaves unchanged. Every table entry, the initialiser and the host's inputs always; the
record and the phase when it responds; the responses when it faults. -/
def Obligations.CommandFrame : Prop :=
  ∀ (i : Instr) (s t : State), exec i s = .next t →
    (∀ x, t.table8.read x = s.table8.read x) ∧ (∀ x, t.table16.read x = s.table16.read x) ∧
    t.initDone = s.initDone ∧ t.rst = s.rst ∧ t.cmds = s.cmds ∧
    ((t.mode = .ready ∧ t.cause = s.cause ∧ t.fcmd = s.fcmd ∧ t.fword = s.fword ∧
        ∃ r, t.responses = s.responses ++ [r]) ∨
      (t.mode = .faulted ∧ t.cause = .domainViolation ∧ t.fcmd = i.code ∧ t.fword = i.operand ∧
        t.responses = s.responses))

/-- R35: an accepted command that does not fault leaves the engine's state exactly as it was, and two equal commands give
equal responses, whatever ran between them. The host's packets and responses are no state of the engine (log entry 1). -/
def Obligations.CommandLeavesNoTrace : Prop :=
  (∀ (s t : State) (p : Packet) (ps : List Packet), s.rst = false → s.mode = .ready → s.cmds = p :: ps →
    step s = .next t → t.mode = .ready → { t with cmds := s.cmds, responses := s.responses } = s) ∧
  (∀ (s s' t t' : State) (p : Packet) (ps ps' : List Packet), Serving s → Serving s' → s.cmds = p :: ps →
    s'.cmds = p :: ps' → step s = .next t → step s' = .next t' → t.mode = .ready →
    t'.mode = .ready ∧ ∃ r, t.responses = s.responses ++ [r] ∧ t'.responses = s'.responses ++ [r])

/-- R149, R70: the outcome of a packet is a function of the packet alone, and it is the one the reference functions give
(R9, R10, R81, R160): from every serving state a step on a presented packet gives the reply that `popcount`, `bitrev`,
the guard and the opcode map alone determine, and nothing else of the engine changes. What becomes of the packets on the
port is left out here (log entry 18). -/
def Obligations.EngineMeetsItsReference : Prop :=
  ∀ (s : State) (p : Packet) (ps : List Packet), Serving s → s.cmds = p :: ps →
    ∃ t, step s = .next t ∧ { t with cmds := s.cmds } = afterReply p (packetReply Config.strictDomain p) s

/-- R47, R199: a sequence of packets none of which faults is answered in order, one response each, depending on its own
packet alone; the run has ended well. That as many steps as packets are enough is the model's reading (log entry 12), and
so is it that accepted packets are gone from the port (log entry 18). -/
def Obligations.RunAnswersInOrder : Prop :=
  ∀ s : State, Serving s → firstFault Config.strictDomain s.cmds = none →
    run s.cmds.length s =
      .next { s with cmds := [], responses := s.responses ++ repliesUpToFault Config.strictDomain s.cmds } ∧
    (repliesUpToFault Config.strictDomain s.cmds).length = s.cmds.length ∧
    runEndedWell { s with cmds := [], responses := s.responses ++ repliesUpToFault Config.strictDomain s.cmds }

/-- R165, R167, R199: a sequence of packets with one that faults gets the responses up to the first fault, then the record
of that packet; no packet behind it is ever accepted. The model's readings and choices: one step for each packet (log
entry 12), the faulting packet gone from the port (log entry 18), and steps in FAULTED that answer the same state (log
entry 6). -/
def Obligations.RunStopsAtFirstFault : Prop :=
  ∀ (s : State) (p : Packet) (f : EngineFault) (rest : List Packet), Serving s →
    firstFault Config.strictDomain s.cmds = some (p, f, rest) → ∀ k,
    run ((repliesUpToFault Config.strictDomain s.cmds).length + 1 + k) s =
      .next { s with
        mode := .faulted
        cause := faultCause f
        fcmd := packetCode p
        fword := packetOperand p
        cmds := rest
        responses := s.responses ++ repliesUpToFault Config.strictDomain s.cmds }

/-- R65, R173: a step hands over at most one response, behind those already handed over: exactly one when a packet is
accepted without a fault, none when a packet is accepted with a fault or when none is accepted; none is dropped or
reordered. That an accepted packet is gone from the port is the model's reading (log entry 18), and that a reset keeps
the responses its choice (log entry 2). -/
def Obligations.ResponsesOnlyGrow : Prop :=
  ∀ s t : State, step s = .next t →
    (t.responses = s.responses ∧ t.cmds = s.cmds ∧ (s.rst = true ∨ s.mode ≠ .ready ∨ s.cmds = [])) ∨
    (s.rst = false ∧ s.mode = .ready ∧ t.mode = .faulted ∧ t.responses = s.responses ∧
      ∃ p : Packet, s.cmds = p :: t.cmds) ∨
    (s.rst = false ∧ s.mode = .ready ∧ t.mode = .ready ∧ ∃ (p : Packet) (r : Word), s.cmds = p :: t.cmds ∧
      t.responses = s.responses ++ [r])
end

