-- ==== Sys2Proof/Laws/Decode.lean ====
section
/-! SUPPORT. The fields of a packet, and what decoding can answer. -/

namespace Sys2Proof

/-- The code of a packet put together from a code and an operand. -/
@[simp] theorem packetCode_mkPacket (c : Code) (w : Word) : packetCode (mkPacket c w) = c := by
  apply BitVec.eq_of_getLsbD_eq
  intro i hi
  simp only [packetCode, mkPacket, BitVec.getLsbD_extractLsb', BitVec.getLsbD_append]
  simp [hi]

/-- The operand of a packet put together from a code and an operand. -/
@[simp] theorem packetOperand_mkPacket (c : Code) (w : Word) : packetOperand (mkPacket c w) = w := by
  apply BitVec.eq_of_getLsbD_eq
  intro i hi
  simp only [packetOperand, mkPacket, BitVec.getLsbD_extractLsb', BitVec.getLsbD_append]
  simp [hi]

/-- A packet is its code above its operand. -/
theorem mkPacket_fields (p : Packet) : mkPacket (packetCode p) (packetOperand p) = p := by
  apply BitVec.eq_of_getLsbD_eq
  intro i hi
  simp only [packetCode, packetOperand, mkPacket, BitVec.getLsbD_extractLsb', BitVec.getLsbD_append]
  by_cases h : i < 64
  · simp [h]
  · have : 64 + (i - 64) = i := by omega
    simp [h, this]
    omega

/-- A legal packet has a legal code, and carries its command's operand. -/
theorem decode_legal {p : Packet} {i : Instr} (h : decode p = .legal i) :
    packetCode p = i.code ∧ packetOperand p = i.operand ∧ legalCode (packetCode p) = true := by
  unfold decode at h
  split at h
  · cases h; simp_all [Instr.code, Instr.operand, legalCode]
  split at h
  · cases h; simp_all [Instr.code, Instr.operand, legalCode]
  split at h
  · cases h; simp_all [Instr.code, Instr.operand, legalCode]
  split at h
  · cases h; simp_all [Instr.code, Instr.operand, legalCode]
  split at h
  · cases h; simp_all [Instr.code, Instr.operand, legalCode]
  split at h
  · cases h; simp_all [Instr.code, Instr.operand, legalCode]
  split at h
  · cases h; simp_all [Instr.code, Instr.operand, legalCode]
  · cases h

/-- The seven legal codes, listed. -/
theorem legalCode_iff (c : Code) : legalCode c = true ↔
    c = 0b0000#4 ∨ c = 0b0001#4 ∨ c = 0b0010#4 ∨ c = 0b0011#4 ∨ c = 0b0100#4 ∨ c = 0b0101#4 ∨ c = 0b1000#4 := by
  revert c; decide

/-- A reserved code decodes to itself, with its operand. -/
theorem decode_reserved {p : Packet} (h : legalCode (packetCode p) = false) :
    decode p = .illegal (packetCode p) (packetOperand p) := by
  have h' : ¬ legalCode (packetCode p) = true := by simp [h]
  rw [legalCode_iff] at h'
  push Not at h'
  obtain ⟨h0, h1, h2, h3, h4, h5, h8⟩ := h'
  simp only [decode, if_neg h0, if_neg h1, if_neg h2, if_neg h3, if_neg h4, if_neg h5, if_neg h8]

/-- What an illegal packet decodes to: its own code, which is reserved, and its own operand. -/
theorem decode_illegal {p : Packet} {c : Code} {w : Word} (h : decode p = .illegal c w) :
    c = packetCode p ∧ w = packetOperand p ∧ legalCode (packetCode p) = false := by
  by_cases hl : legalCode (packetCode p) = true
  · exfalso
    rw [legalCode_iff] at hl
    unfold decode at h
    rcases hl with hl | hl | hl | hl | hl | hl | hl <;> simp [hl] at h
  · simp only [Bool.not_eq_true] at hl
    rw [decode_reserved hl] at h
    cases h
    exact ⟨rfl, rfl, hl⟩

end Sys2Proof
end

