-- ==== Sys2Proof/Laws/State.lean ====
section
/-! SUPPORT. The fields of State after each named update, one lemma a field, so that no proof unfolds a record update. -/

namespace Sys2Proof.Machine

/-! `writeTable8` -/

@[simp] theorem writeTable8_mode (x : Nat) (v : Entry) (s : State) : (writeTable8 x v s).mode = s.mode := rfl
@[simp] theorem writeTable8_cause (x : Nat) (v : Entry) (s : State) : (writeTable8 x v s).cause = s.cause := rfl
@[simp] theorem writeTable8_fcmd (x : Nat) (v : Entry) (s : State) : (writeTable8 x v s).fcmd = s.fcmd := rfl
@[simp] theorem writeTable8_fword (x : Nat) (v : Entry) (s : State) : (writeTable8 x v s).fword = s.fword := rfl
@[simp] theorem writeTable8_table8 (x : Nat) (v : Entry) (s : State) : (writeTable8 x v s).table8 = s.table8.write x v := rfl
@[simp] theorem writeTable8_table16 (x : Nat) (v : Entry) (s : State) : (writeTable8 x v s).table16 = s.table16 := rfl
@[simp] theorem writeTable8_initDone (x : Nat) (v : Entry) (s : State) : (writeTable8 x v s).initDone = s.initDone + 1 := rfl
@[simp] theorem writeTable8_rst (x : Nat) (v : Entry) (s : State) : (writeTable8 x v s).rst = s.rst := rfl
@[simp] theorem writeTable8_cmds (x : Nat) (v : Entry) (s : State) : (writeTable8 x v s).cmds = s.cmds := rfl
@[simp] theorem writeTable8_responses (x : Nat) (v : Entry) (s : State) : (writeTable8 x v s).responses = s.responses := rfl

/-! `writeTable16` -/

@[simp] theorem writeTable16_mode (x : Nat) (v : Entry) (s : State) : (writeTable16 x v s).mode = s.mode := rfl
@[simp] theorem writeTable16_cause (x : Nat) (v : Entry) (s : State) : (writeTable16 x v s).cause = s.cause := rfl
@[simp] theorem writeTable16_fcmd (x : Nat) (v : Entry) (s : State) : (writeTable16 x v s).fcmd = s.fcmd := rfl
@[simp] theorem writeTable16_fword (x : Nat) (v : Entry) (s : State) : (writeTable16 x v s).fword = s.fword := rfl
@[simp] theorem writeTable16_table8 (x : Nat) (v : Entry) (s : State) : (writeTable16 x v s).table8 = s.table8 := rfl
@[simp] theorem writeTable16_table16 (x : Nat) (v : Entry) (s : State) : (writeTable16 x v s).table16 = s.table16.write x v := rfl
@[simp] theorem writeTable16_initDone (x : Nat) (v : Entry) (s : State) : (writeTable16 x v s).initDone = s.initDone + 1 := rfl
@[simp] theorem writeTable16_rst (x : Nat) (v : Entry) (s : State) : (writeTable16 x v s).rst = s.rst := rfl
@[simp] theorem writeTable16_cmds (x : Nat) (v : Entry) (s : State) : (writeTable16 x v s).cmds = s.cmds := rfl
@[simp] theorem writeTable16_responses (x : Nat) (v : Entry) (s : State) : (writeTable16 x v s).responses = s.responses := rfl

/-! `respond` -/

@[simp] theorem respond_mode (r : Word) (s : State) : (respond r s).mode = s.mode := rfl
@[simp] theorem respond_cause (r : Word) (s : State) : (respond r s).cause = s.cause := rfl
@[simp] theorem respond_fcmd (r : Word) (s : State) : (respond r s).fcmd = s.fcmd := rfl
@[simp] theorem respond_fword (r : Word) (s : State) : (respond r s).fword = s.fword := rfl
@[simp] theorem respond_table8 (r : Word) (s : State) : (respond r s).table8 = s.table8 := rfl
@[simp] theorem respond_table16 (r : Word) (s : State) : (respond r s).table16 = s.table16 := rfl
@[simp] theorem respond_initDone (r : Word) (s : State) : (respond r s).initDone = s.initDone := rfl
@[simp] theorem respond_rst (r : Word) (s : State) : (respond r s).rst = s.rst := rfl
@[simp] theorem respond_cmds (r : Word) (s : State) : (respond r s).cmds = s.cmds := rfl
@[simp] theorem respond_responses (r : Word) (s : State) : (respond r s).responses = s.responses ++ [r] := rfl

/-! `setCmds` -/

@[simp] theorem setCmds_mode (ps : List Packet) (s : State) : (setCmds ps s).mode = s.mode := rfl
@[simp] theorem setCmds_cause (ps : List Packet) (s : State) : (setCmds ps s).cause = s.cause := rfl
@[simp] theorem setCmds_fcmd (ps : List Packet) (s : State) : (setCmds ps s).fcmd = s.fcmd := rfl
@[simp] theorem setCmds_fword (ps : List Packet) (s : State) : (setCmds ps s).fword = s.fword := rfl
@[simp] theorem setCmds_table8 (ps : List Packet) (s : State) : (setCmds ps s).table8 = s.table8 := rfl
@[simp] theorem setCmds_table16 (ps : List Packet) (s : State) : (setCmds ps s).table16 = s.table16 := rfl
@[simp] theorem setCmds_initDone (ps : List Packet) (s : State) : (setCmds ps s).initDone = s.initDone := rfl
@[simp] theorem setCmds_rst (ps : List Packet) (s : State) : (setCmds ps s).rst = s.rst := rfl
@[simp] theorem setCmds_cmds (ps : List Packet) (s : State) : (setCmds ps s).cmds = ps := rfl
@[simp] theorem setCmds_responses (ps : List Packet) (s : State) : (setCmds ps s).responses = s.responses := rfl

/-! `raiseFault` -/

@[simp] theorem raiseFault_mode (f : EngineFault) (c : Code) (w : Word) (s : State) : (raiseFault f c w s).mode = .faulted := rfl
@[simp] theorem raiseFault_cause (f : EngineFault) (c : Code) (w : Word) (s : State) : (raiseFault f c w s).cause = faultCause f := rfl
@[simp] theorem raiseFault_fcmd (f : EngineFault) (c : Code) (w : Word) (s : State) : (raiseFault f c w s).fcmd = c := rfl
@[simp] theorem raiseFault_fword (f : EngineFault) (c : Code) (w : Word) (s : State) : (raiseFault f c w s).fword = w := rfl
@[simp] theorem raiseFault_table8 (f : EngineFault) (c : Code) (w : Word) (s : State) : (raiseFault f c w s).table8 = s.table8 := rfl
@[simp] theorem raiseFault_table16 (f : EngineFault) (c : Code) (w : Word) (s : State) : (raiseFault f c w s).table16 = s.table16 := rfl
@[simp] theorem raiseFault_initDone (f : EngineFault) (c : Code) (w : Word) (s : State) : (raiseFault f c w s).initDone = s.initDone := rfl
@[simp] theorem raiseFault_rst (f : EngineFault) (c : Code) (w : Word) (s : State) : (raiseFault f c w s).rst = s.rst := rfl
@[simp] theorem raiseFault_cmds (f : EngineFault) (c : Code) (w : Word) (s : State) : (raiseFault f c w s).cmds = s.cmds := rfl
@[simp] theorem raiseFault_responses (f : EngineFault) (c : Code) (w : Word) (s : State) : (raiseFault f c w s).responses = s.responses := rfl

/-! `takeReset` -/

@[simp] theorem takeReset_mode (s : State) : (takeReset s).mode = .init := rfl
@[simp] theorem takeReset_cause (s : State) : (takeReset s).cause = .none := rfl
@[simp] theorem takeReset_fcmd (s : State) : (takeReset s).fcmd = 0 := rfl
@[simp] theorem takeReset_fword (s : State) : (takeReset s).fword = 0 := rfl
@[simp] theorem takeReset_table8 (s : State) : (takeReset s).table8 = [] := rfl
@[simp] theorem takeReset_table16 (s : State) : (takeReset s).table16 = [] := rfl
@[simp] theorem takeReset_initDone (s : State) : (takeReset s).initDone = 0 := rfl
@[simp] theorem takeReset_rst (s : State) : (takeReset s).rst = false := rfl
@[simp] theorem takeReset_cmds (s : State) : (takeReset s).cmds = s.cmds := rfl
@[simp] theorem takeReset_responses (s : State) : (takeReset s).responses = s.responses := rfl

/-! `becomeReady` -/

@[simp] theorem becomeReady_mode (s : State) : (becomeReady s).mode = .ready := rfl
@[simp] theorem becomeReady_cause (s : State) : (becomeReady s).cause = s.cause := rfl
@[simp] theorem becomeReady_fcmd (s : State) : (becomeReady s).fcmd = s.fcmd := rfl
@[simp] theorem becomeReady_fword (s : State) : (becomeReady s).fword = s.fword := rfl
@[simp] theorem becomeReady_table8 (s : State) : (becomeReady s).table8 = s.table8 := rfl
@[simp] theorem becomeReady_table16 (s : State) : (becomeReady s).table16 = s.table16 := rfl
@[simp] theorem becomeReady_initDone (s : State) : (becomeReady s).initDone = s.initDone := rfl
@[simp] theorem becomeReady_rst (s : State) : (becomeReady s).rst = s.rst := rfl
@[simp] theorem becomeReady_cmds (s : State) : (becomeReady s).cmds = s.cmds := rfl
@[simp] theorem becomeReady_responses (s : State) : (becomeReady s).responses = s.responses := rfl

/-! `booted` -/

@[simp] theorem booted_mode (s : State) : (booted s).mode = .ready := rfl
@[simp] theorem booted_cause (s : State) : (booted s).cause = .none := rfl
@[simp] theorem booted_fcmd (s : State) : (booted s).fcmd = 0 := rfl
@[simp] theorem booted_fword (s : State) : (booted s).fword = 0 := rfl
@[simp] theorem booted_table8 (s : State) : (booted s).table8 = builtTable Config.t8Entries := rfl
@[simp] theorem booted_table16 (s : State) : (booted s).table16 = builtTable Config.t16Entries := rfl
@[simp] theorem booted_initDone (s : State) : (booted s).initDone = Config.initWrites := rfl
@[simp] theorem booted_rst (s : State) : (booted s).rst = false := rfl
@[simp] theorem booted_cmds (s : State) : (booted s).cmds = s.cmds := rfl
@[simp] theorem booted_responses (s : State) : (booted s).responses = s.responses := rfl

/-! `present` -/

@[simp] theorem present_mode (p : Packet) (s : State) : (present p s).mode = s.mode := rfl
@[simp] theorem present_cause (p : Packet) (s : State) : (present p s).cause = s.cause := rfl
@[simp] theorem present_fcmd (p : Packet) (s : State) : (present p s).fcmd = s.fcmd := rfl
@[simp] theorem present_fword (p : Packet) (s : State) : (present p s).fword = s.fword := rfl
@[simp] theorem present_table8 (p : Packet) (s : State) : (present p s).table8 = s.table8 := rfl
@[simp] theorem present_table16 (p : Packet) (s : State) : (present p s).table16 = s.table16 := rfl
@[simp] theorem present_initDone (p : Packet) (s : State) : (present p s).initDone = s.initDone := rfl
@[simp] theorem present_rst (p : Packet) (s : State) : (present p s).rst = s.rst := rfl
@[simp] theorem present_cmds (p : Packet) (s : State) : (present p s).cmds = s.cmds ++ [p] := rfl
@[simp] theorem present_responses (p : Packet) (s : State) : (present p s).responses = s.responses := rfl

/-! `requestReset` -/

@[simp] theorem requestReset_mode (s : State) : (requestReset s).mode = s.mode := rfl
@[simp] theorem requestReset_cause (s : State) : (requestReset s).cause = s.cause := rfl
@[simp] theorem requestReset_fcmd (s : State) : (requestReset s).fcmd = s.fcmd := rfl
@[simp] theorem requestReset_fword (s : State) : (requestReset s).fword = s.fword := rfl
@[simp] theorem requestReset_table8 (s : State) : (requestReset s).table8 = s.table8 := rfl
@[simp] theorem requestReset_table16 (s : State) : (requestReset s).table16 = s.table16 := rfl
@[simp] theorem requestReset_initDone (s : State) : (requestReset s).initDone = s.initDone := rfl
@[simp] theorem requestReset_rst (s : State) : (requestReset s).rst = true := rfl
@[simp] theorem requestReset_cmds (s : State) : (requestReset s).cmds = s.cmds := rfl
@[simp] theorem requestReset_responses (s : State) : (requestReset s).responses = s.responses := rfl

/-! `State.reset` -/

@[simp] theorem reset_mode : State.reset.mode = .init := rfl
@[simp] theorem reset_cause : State.reset.cause = .none := rfl
@[simp] theorem reset_fcmd : State.reset.fcmd = 0 := rfl
@[simp] theorem reset_fword : State.reset.fword = 0 := rfl
@[simp] theorem reset_table8 : State.reset.table8 = [] := rfl
@[simp] theorem reset_table16 : State.reset.table16 = [] := rfl
@[simp] theorem reset_initDone : State.reset.initDone = 0 := rfl
@[simp] theorem reset_rst : State.reset.rst = false := rfl
@[simp] theorem reset_cmds : State.reset.cmds = [] := rfl
@[simp] theorem reset_responses : State.reset.responses = [] := rfl

/-- The updates of the two ports do not meet those of the record: a fault taken after a command left the port. -/
theorem raiseFault_setCmds (f : EngineFault) (c : Code) (w : Word) (ps : List Packet) (s : State) :
    raiseFault f c w (setCmds ps s) = setCmds ps (raiseFault f c w s) := rfl

/-- A response handed over after a command left the port. -/
theorem respond_setCmds (r : Word) (ps : List Packet) (s : State) :
    respond r (setCmds ps s) = setCmds ps (respond r s) := rfl

end Sys2Proof.Machine
end

