-- ==== Sys2Proof/Laws/Ops.lean ====
section
/-! SUPPORT. What each shared operation can do, said once. -/

namespace Sys2Proof.Machine

/-! Tables -/

@[simp] theorem Memory.read_nil (i : Nat) : Memory.read [] i = none := rfl

@[simp] theorem Memory.read_cons (c : Host.Cell) (m : Memory) (i : Nat) :
    Memory.read (c :: m) i = if c.1 = i then some c.2 else Memory.read m i := rfl

/-- Reading the index just written gives the value written, and every other index reads as before. -/
theorem Memory.read_write (m : Memory) (i : Nat) (v : Entry) (j : Nat) :
    (m.write i v).read j = if i = j then some v else m.read j := by
  induction m with
  | nil => simp [Memory.write]
  | cons c m ih =>
    simp only [Memory.write]
    split
    · simp
    · split
      · rename_i h
        subst h
        by_cases hj : c.1 = j <;> simp [hj]
      · rename_i h
        simp only [Memory.read_cons, ih]
        by_cases hj : c.1 = j
        · have : ¬ i = j := by omega
          simp [hj, this]
        · simp [hj]

/-- The indices a table lists after a write: those listed before, and the one written. -/
theorem Memory.mem_write {m : Memory} {i : Nat} {v : Entry} {d : Host.Cell} (h : d ∈ m.write i v) :
    d = (i, v) ∨ d ∈ m := by
  induction m with
  | nil => simpa [Memory.write] using h
  | cons c m ih =>
    simp only [Memory.write] at h
    split at h
    · simpa using h
    · split at h
      · rcases List.mem_cons.1 h with h | h
        · exact .inl h
        · exact .inr (List.mem_cons_of_mem _ h)
      · rcases List.mem_cons.1 h with h | h
        · exact .inr (h ▸ List.mem_cons_self)
        · exact (ih h).imp id (List.mem_cons_of_mem _)

/-- A write keeps the canonical form. -/
theorem Memory.write_wf {m : Memory} (h : m.wf = true) (i : Nat) (v : Entry) : (m.write i v).wf = true := by
  induction m with
  | nil => rfl
  | cons c m ih =>
    simp only [Memory.wf, Bool.and_eq_true, List.all_eq_true, decide_eq_true_eq] at h
    simp only [Memory.write]
    split
    · rename_i hlt
      simp only [Memory.wf, Bool.and_eq_true, List.all_eq_true, decide_eq_true_eq]
      refine ⟨fun d hd => ?_, h⟩
      rcases List.mem_cons.1 hd with hd | hd
      · exact hd ▸ hlt
      · exact Nat.lt_trans hlt (h.1 d hd)
    · split
      · rename_i heq
        simp only [Memory.wf, Bool.and_eq_true, List.all_eq_true, decide_eq_true_eq]
        exact ⟨fun d hd => heq ▸ h.1 d hd, h.2⟩
      · simp only [Memory.wf, Bool.and_eq_true, List.all_eq_true, decide_eq_true_eq]
        refine ⟨fun d hd => ?_, ih h.2⟩
        rcases Memory.mem_write hd with hd | hd
        · subst hd; simp only; omega
        · exact h.1 d hd

/-- The sum of a list of written entries, one entry at a time. -/
theorem sumEntries_cons {t : Memory} {i : Nat} {e : Entry} (h : t.read i = some e) (is : List Nat) (n : Count) :
    sumEntries t (i :: is) n = sumEntries t is (n + e.setWidth 7) := by
  simp [sumEntries, h]

/-- A sum has no value as soon as one entry has none. -/
theorem sumEntries_unwritten {t : Memory} {i : Nat} (h : t.read i = none) (is : List Nat) (n : Count) :
    sumEntries t (i :: is) n = none := by
  simp [sumEntries, h]

/-! Acceptance, responses, the guard -/

/-- A command that answers a next state was accepted in READY. -/
theorem whenReady_next {s t : State} {o : Host.Outcome State Fault Refusal} (h : whenReady s o = .next t) :
    s.mode = .ready ∧ o = .next t := by
  unfold whenReady at h
  split at h
  · exact ⟨‹_›, h⟩
  · cases h
  · cases h

/-- In READY a command is accepted. -/
theorem whenReady_ready {s : State} (h : s.mode = .ready) (o : Host.Outcome State Fault Refusal) :
    whenReady s o = o := by
  simp [whenReady, h]

/-- Everything a guarded command can do when it answers a next state. -/
theorem guardedCount_next {strict : Bool} {code : Code} {w : Word} {fn : Word → Count} {s t : State}
    (h : guardedCount strict code w fn s = .next t) :
    s.mode = .ready ∧
      ((outsideDomain strict w = true ∧ t = raiseFault .domainViolation code w s) ∨
        (outsideDomain strict w = false ∧ t = respond (zext64 (fn w)) s)) := by
  obtain ⟨hr, h⟩ := whenReady_next h
  refine ⟨hr, ?_⟩
  injection h with h
  by_cases hd : outsideDomain strict w = true
  · exact .inl ⟨hd, by simpa [hd] using h.symm⟩
  · simp only [Bool.not_eq_true] at hd
    exact .inr ⟨hd, by simpa [hd] using h.symm⟩

/-- Everything a table command can do when it answers a next state: the sum has a value and is the response. -/
theorem respondSum_next {sum : Option Count} {s t : State} (h : respondSum sum s = .next t) :
    ∃ n, sum = some n ∧ t = respond (zext64 n) s := by
  cases sum with
  | none => cases h
  | some n => exact ⟨n, rfl, by injection h with h; exact h.symm⟩

/-- Everything a command can do when it answers a next state: respond, or take a domain fault with its own code and
operand (`30_encoding.md` R70). -/
theorem exec_next {i : Instr} {s t : State} (h : exec i s = .next t) :
    s.mode = .ready ∧ ((∃ r, t = respond r s) ∨ t = raiseFault .domainViolation i.code i.operand s) := by
  cases i with
  | popcntIter w => obtain ⟨hr, ⟨-, h⟩ | ⟨-, h⟩⟩ := guardedCount_next h; exacts [⟨hr, .inr h⟩, ⟨hr, .inl ⟨_, h⟩⟩]
  | popcntSparse w => obtain ⟨hr, ⟨-, h⟩ | ⟨-, h⟩⟩ := guardedCount_next h; exacts [⟨hr, .inr h⟩, ⟨hr, .inl ⟨_, h⟩⟩]
  | popcntDense w => obtain ⟨hr, ⟨-, h⟩ | ⟨-, h⟩⟩ := guardedCount_next h; exacts [⟨hr, .inr h⟩, ⟨hr, .inl ⟨_, h⟩⟩]
  | popcntBytetab w =>
    obtain ⟨hr, h⟩ := whenReady_next h
    obtain ⟨n, -, h⟩ := respondSum_next h
    exact ⟨hr, .inl ⟨_, h⟩⟩
  | popcntHalftab w =>
    obtain ⟨hr, h⟩ := whenReady_next h
    obtain ⟨n, -, h⟩ := respondSum_next h
    exact ⟨hr, .inl ⟨_, h⟩⟩
  | popcntFold w =>
    obtain ⟨hr, h⟩ := whenReady_next h
    injection h with h
    exact ⟨hr, .inl ⟨_, h.symm⟩⟩
  | revbits w =>
    obtain ⟨hr, h⟩ := whenReady_next h
    injection h with h
    exact ⟨hr, .inl ⟨_, h.symm⟩⟩

/-! Each command in READY -/

/-- The three guarded commands in READY: the guard, then the response. -/
theorem guardedCount_ready {s : State} (h : s.mode = .ready) (strict : Bool) (code : Code) (w : Word)
    (fn : Word → Count) : guardedCount strict code w fn s =
      .next (if outsideDomain strict w then raiseFault .domainViolation code w s else respond (zext64 (fn w)) s) :=
  whenReady_ready h _

/-- POPCNT.ITER in READY. -/
theorem execPopcntIter_ready {s : State} (h : s.mode = .ready) (w : Word) :
    exec (.popcntIter w) s = .next (if outsideDomain Config.strictDomain w then raiseFault .domainViolation 0b0000#4 w s
      else respond (zext64 (iterFn w)) s) :=
  whenReady_ready h _

/-- POPCNT.SPARSE in READY. -/
theorem execPopcntSparse_ready {s : State} (h : s.mode = .ready) (w : Word) :
    exec (.popcntSparse w) s = .next (if outsideDomain Config.strictDomain w then raiseFault .domainViolation 0b0001#4 w s
      else respond (zext64 (sparseFn w)) s) :=
  whenReady_ready h _

/-- POPCNT.DENSE in READY. -/
theorem execPopcntDense_ready {s : State} (h : s.mode = .ready) (w : Word) :
    exec (.popcntDense w) s = .next (if outsideDomain Config.strictDomain w then raiseFault .domainViolation 0b0010#4 w s
      else respond (zext64 (denseFn w)) s) :=
  whenReady_ready h _

/-- POPCNT.BYTETAB in READY: its sum is the response. -/
theorem execPopcntBytetab_ready {s : State} (h : s.mode = .ready) (w : Word) :
    exec (.popcntBytetab w) s = respondSum (tab8Fn s.table8 w) s :=
  whenReady_ready h _

/-- POPCNT.HALFTAB in READY: its sum is the response. -/
theorem execPopcntHalftab_ready {s : State} (h : s.mode = .ready) (w : Word) :
    exec (.popcntHalftab w) s = respondSum (tab16Fn s.table16 w) s :=
  whenReady_ready h _

/-- POPCNT.FOLD in READY responds its folded word. -/
theorem execPopcntFold_ready {s : State} (h : s.mode = .ready) (w : Word) :
    exec (.popcntFold w) s = .next (respond (zext64 (foldFn w)) s) :=
  whenReady_ready h _

/-- REVBITS in READY responds its reversed word. -/
theorem execRevbits_ready {s : State} (h : s.mode = .ready) (w : Word) :
    exec (.revbits w) s = .next (respond (revFn w) s) :=
  whenReady_ready h _

/-! The loop -/

@[simp] theorem whileNonzero_zero (body : Work → Work) (k : Work) : whileNonzero body 0 k = k := rfl

/-- One turn of the loop: the exit test comes first. -/
theorem whileNonzero_succ (body : Work → Work) (b : Nat) (k : Work) :
    whileNonzero body (b + 1) k = if k.v = 0 then k else whileNonzero body b (body k) := rfl

/-- A loop that has reached zero stays there. -/
theorem whileNonzero_done (body : Work → Work) (b : Nat) {k : Work} (h : k.v = 0) : whileNonzero body b k = k := by
  cases b with
  | zero => rfl
  | succ b => simp [whileNonzero_succ, h]

end Sys2Proof.Machine
end

