-- ==== Sys2Proof/Laws/Step.lean ====
section
/-! SUPPORT. What one step can do, said once; later proofs cite `step_next`. -/

namespace Sys2Proof.Machine

/-- Everything the initialiser's step can do (`41_popcount_table.md` R100, `70_reset_and_hazards.md` R193). -/
theorem initialiserStep_cases (s : State) :
    (s.initDone < Config.t8Entries ∧
      initialiserStep s = writeTable8 s.initDone (builtEntry s.initDone) s) ∨
    (Config.t8Entries ≤ s.initDone ∧ s.initDone < Config.initWrites ∧
      initialiserStep s =
        writeTable16 (s.initDone - Config.t8Entries) (builtEntry (s.initDone - Config.t8Entries)) s) ∨
    (Config.initWrites ≤ s.initDone ∧ initialiserStep s = becomeReady s) := by
  by_cases h8 : s.initDone < Config.t8Entries
  · exact .inl ⟨h8, by rw [initialiserStep, if_pos h8]⟩
  by_cases h16 : s.initDone < Config.initWrites
  · exact .inr (.inl ⟨by omega, h16, by rw [initialiserStep, if_neg h8, if_pos h16]⟩)
  · exact .inr (.inr ⟨by omega, by rw [initialiserStep, if_neg h8, if_neg h16]⟩)

/-- Everything a decoded packet can do when it answers a next state. -/
theorem execDecoded_next {d : Decoded} {s t : State} (h : execDecoded d s = .next t) :
    s.mode = .ready ∧
      ((∃ i, d = .legal i ∧ exec i s = .next t) ∨
        ∃ c w, d = .illegal c w ∧ t = raiseFault .illegalCommand c w s) := by
  cases d with
  | legal i => exact ⟨(exec_next h).1, .inl ⟨i, rfl, h⟩⟩
  | illegal c w =>
    obtain ⟨hr, h⟩ := whenReady_next h
    injection h with h
    exact ⟨hr, .inr ⟨c, w, rfl, h.symm⟩⟩

/-- Everything a step can do when it answers a next state: a reset; a step of the initialiser; waiting, with nothing
presented or after a fault; or the packet `p` accepted from the port, which gets a response, a domain fault, or an
illegal-command fault. -/
theorem step_next {s t : State} (h : step s = .next t) :
    (s.rst = true ∧ t = takeReset s) ∨
    (s.rst = false ∧ s.mode = .init ∧ t = initialiserStep s) ∨
    (s.rst = false ∧ s.mode = .ready ∧ s.cmds = [] ∧ t = s) ∨
    (s.rst = false ∧ s.mode = .faulted ∧ t = s) ∨
    (s.rst = false ∧ s.mode = .ready ∧ ∃ p ps, s.cmds = p :: ps ∧
      ((∃ i r, decode p = .legal i ∧ exec i (setCmds ps s) = .next t ∧ t = respond r (setCmds ps s)) ∨
        (∃ i, decode p = .legal i ∧ exec i (setCmds ps s) = .next t ∧
          t = raiseFault .domainViolation (packetCode p) (packetOperand p) (setCmds ps s)) ∨
        (legalCode (packetCode p) = false ∧
          t = raiseFault .illegalCommand (packetCode p) (packetOperand p) (setCmds ps s)))) := by
  unfold step at h
  split at h
  · injection h with h; exact .inl ⟨‹_›, h.symm⟩
  · rename_i hr
    simp only [Bool.not_eq_true] at hr
    refine .inr ?_
    split at h
    · injection h with h; exact .inl ⟨hr, ‹_›, h.symm⟩
    · rename_i hm
      unfold commandStep at h
      split at h
      · injection h with h; exact .inr (.inl ⟨hr, hm, ‹_›, h.symm⟩)
      · rename_i p ps hc
        refine .inr (.inr (.inr ⟨hr, hm, p, ps, hc, ?_⟩))
        obtain ⟨-, ⟨i, hd, he⟩ | ⟨c, w, hd, ht⟩⟩ := execDecoded_next h
        · obtain ⟨-, ⟨r, hx⟩ | hx⟩ := exec_next he
          · exact .inl ⟨i, r, hd, he, hx⟩
          · obtain ⟨hcode, hop, -⟩ := decode_legal hd
            exact .inr (.inl ⟨i, hd, he, by rw [hcode, hop]; exact hx⟩)
        · obtain ⟨rfl, rfl, hl⟩ := decode_illegal hd
          exact .inr (.inr ⟨hl, ht⟩)
    · injection h with h; exact .inr (.inr (.inl ⟨hr, ‹_›, h.symm⟩))

/-- A reset request is honoured in any mode. -/
theorem step_rst {s : State} (h : s.rst = true) : step s = .next (takeReset s) := by
  simp [step, h]

/-- In INIT the initialiser runs. -/
theorem step_init {s : State} (hr : s.rst = false) (hm : s.mode = .init) : step s = .next (initialiserStep s) := by
  simp [step, hr, hm]

/-- In FAULTED nothing changes. -/
theorem step_faulted {s : State} (hr : s.rst = false) (hm : s.mode = .faulted) : step s = .next s := by
  simp [step, hr, hm]

/-- In READY with nothing presented the engine waits. -/
theorem step_idle {s : State} (hr : s.rst = false) (hm : s.mode = .ready) (hc : s.cmds = []) : step s = .next s := by
  simp [step, hr, hm, commandStep, hc]

/-- In READY the packet on the port is accepted. -/
theorem step_accept {s : State} {p : Packet} {ps : List Packet} (hr : s.rst = false) (hm : s.mode = .ready)
    (hc : s.cmds = p :: ps) : step s = execDecoded (decode p) (setCmds ps s) := by
  simp [step, hr, hm, commandStep, hc]

/-! Runs of several steps -/

@[simp] theorem run_zero (s : State) : run 0 s = .next s := rfl

/-- A run whose first step answers a next state goes on from it. -/
theorem run_succ {s t : State} (k : Nat) (h : step s = .next t) : run (k + 1) s = run k t := by
  simp [run, Host.Core.run, core, h]

/-- A run of two parts. -/
theorem run_add {s t : State} (j k : Nat) (h : run j s = .next t) : run (j + k) s = run k t := by
  induction j generalizing s with
  | zero => simp only [run_zero] at h; injection h with h; subst h; simp
  | succ j ih =>
    cases hs : step s with
    | next u =>
      rw [run_succ j hs] at h
      rw [Nat.succ_add, run_succ (j + k) hs]
      exact ih h
    | fault r => simp [run, Host.Core.run, core, hs] at h
    | refused r => simp [run, Host.Core.run, core, hs] at h

end Sys2Proof.Machine
end

