-- ==== Sys2Proof/Laws/Built.lean ====
section
/-! SUPPORT. What the initialiser writes: entry x holds the number of set bits of x, so the state INIT leaves meets the
invariant. The tests' witnesses rest on this. -/

namespace Sys2Proof.Machine

/-- The count of `k + 1` bits, the lowest taken off. -/
theorem popcountUpTo_shift (w : Word) (k : Nat) :
    popcountUpTo w (k + 1) = (w.getLsbD 0).toNat + popcountUpTo (w >>> 1) k := by
  induction k with
  | zero => simp [popcountUpTo]
  | succ k ih =>
    rw [popcountUpTo, ih, popcountUpTo, BitVec.getLsbD_ushiftRight, Nat.add_comm 1 k]
    omega

/-- The accumulated bit as a number. -/
theorem lowBit_eq (w : Word) : lowBit w = BitVec.ofNat 7 (w.getLsbD 0).toNat := by
  apply BitVec.eq_of_getLsbD_eq
  intro i hi
  simp only [lowBit, BitVec.getLsbD_setWidth, BitVec.getLsbD_extractLsb', BitVec.getLsbD_ofNat]
  cases i with
  | zero => cases h : w.getLsbD 0 <;> simp
  | succ i => cases h : w.getLsbD 0 <;> simp [Nat.testBit_succ]

/-- No bit above those of a number that fits in `b` bits: shifting takes one bit off. -/
theorem shift_lt {w : Word} {b : Nat} (h : w.toNat < 2 ^ (b + 1)) : (w >>> 1).toNat < 2 ^ b := by
  rw [BitVec.toNat_ushiftRight, Nat.shiftRight_eq_div_pow]
  omega

/-- The zero word has no set bits. -/
theorem popcountUpTo_zero (k : Nat) : popcountUpTo (0 : Word) k = 0 := by
  induction k with
  | zero => rfl
  | succ k ih => rw [popcountUpTo, ih, show (0 : Word).getLsbD k = false from BitVec.getLsbD_zero]; rfl

/-- The loop of the Iterated strategy adds the set bits of a word of at most `b` bits to its count. -/
theorem iterLoop_count (b : Nat) (w : Word) (n : Count) (h : w.toNat < 2 ^ b) :
    (whileNonzero iterBody b { v := w, n := n }).n = n + BitVec.ofNat 7 (popcountUpTo w b) := by
  induction b generalizing w n with
  | zero => simp [popcountUpTo]
  | succ b ih =>
    rw [whileNonzero_succ]
    split
    · rename_i hz
      have hz : w = 0 := hz
      rw [hz, popcountUpTo_zero]
      simp
    · rw [iterBody, ih _ _ (shift_lt h), popcountUpTo_shift, lowBit_eq, BitVec.ofNat_add, BitVec.add_assoc]

/-- `iter_fn` of an index counts its bits, at the width of the table. -/
theorem builtEntry_popcount {n : Nat} (hn : n ≤ 64) {x : Nat} (hx : x < 2 ^ n) :
    builtEntry x = BitVec.ofNat 8 (popcount (BitVec.ofNat n x)) := by
  have hbits : ∀ k, n ≤ k → k ≤ 64 →
      popcountUpTo (BitVec.ofNat 64 x) k = popcountUpTo (BitVec.ofNat n x) n := by
    intro k hk
    induction k, hk using Nat.le_induction with
    | base =>
      intro _
      have : ∀ j, j ≤ n → popcountUpTo (BitVec.ofNat 64 x) j = popcountUpTo (BitVec.ofNat n x) j := by
        intro j hj
        induction j with
        | zero => rfl
        | succ j ih =>
          have h1 : j < n := by omega
          have h2 : j < 64 := by omega
          rw [popcountUpTo, popcountUpTo, ih (by omega), BitVec.getLsbD_ofNat, BitVec.getLsbD_ofNat]
          simp [h1, h2]
      exact this n le_rfl
    | succ k hk ih =>
      intro hk64
      have : x.testBit k = false :=
        Nat.testBit_lt_two_pow (Nat.lt_of_lt_of_le hx (Nat.pow_le_pow_right (by decide) hk))
      rw [popcountUpTo, ih (by omega), BitVec.getLsbD_ofNat, this]
      simp
  have hle : popcountUpTo (BitVec.ofNat n x) n ≤ n := by
    have : ∀ j, popcountUpTo (BitVec.ofNat n x) j ≤ j := by
      intro j
      induction j with
      | zero => simp [popcountUpTo]
      | succ j ih => simp only [popcountUpTo]; have := Bool.toNat_le ((BitVec.ofNat n x).getLsbD j); omega
    exact this n
  have hcount := iterLoop_count 64 (BitVec.ofNat 64 x) 0 (BitVec.isLt _)
  rw [hbits 64 hn le_rfl] at hcount
  simp only [builtEntry, iterFn, iterRun, Config.loopBound, hcount, popcount]
  apply BitVec.eq_of_toNat_eq
  have h0 : BitVec.toNat (0 : Count) = 0 := rfl
  simp only [BitVec.toNat_setWidth, BitVec.toNat_add, BitVec.toNat_ofNat, h0]
  omega

/-- What a built table lists. -/
theorem builtFrom_read (k x i : Nat) :
    (builtFrom x k).read i = if x ≤ i ∧ i < x + k then some (builtEntry i) else none := by
  induction k generalizing x with
  | zero => simp only [builtFrom, Memory.read_nil]; rw [if_neg]; omega
  | succ k ih =>
    simp only [builtFrom, Memory.read_cons, ih]
    by_cases h : x = i
    · subst h; simp
    · rw [if_neg h]
      by_cases h' : x + 1 ≤ i ∧ i < x + 1 + k
      · rw [if_pos h', if_pos (by omega)]
      · rw [if_neg h', if_neg (by omega)]

/-- The indices a built table lists. -/
theorem builtFrom_mem {k x : Nat} {d : Host.Cell} (h : d ∈ builtFrom x k) : x ≤ d.1 := by
  induction k generalizing x with
  | zero => cases h
  | succ k ih =>
    rcases List.mem_cons.1 h with h | h
    · exact h ▸ Nat.le_refl x
    · have := ih h; omega

/-- A built table is in canonical form. -/
theorem builtFrom_wf (k x : Nat) : (builtFrom x k).wf = true := by
  induction k generalizing x with
  | zero => rfl
  | succ k ih =>
    simp only [builtFrom, Memory.wf, Bool.and_eq_true, List.all_eq_true, decide_eq_true_eq]
    exact ⟨fun d hd => Nat.lt_of_succ_le (builtFrom_mem hd), ih (x + 1)⟩

/-- A table whose first `k` entries the initialiser has written holds the counts of its indices. -/
theorem builtTable_built {n : Nat} (hn : n ≤ 64) {k : Nat} (hk : k ≤ 2 ^ n) : TableBuilt n (builtTable k) k := by
  refine ⟨builtFrom_wf k 0, fun x => ?_⟩
  rw [builtTable, builtFrom_read]
  by_cases h : x < k
  · simp [h, builtEntry_popcount hn (Nat.lt_of_lt_of_le h hk)]
  · simp [h]

/-- The state INIT leaves meets the invariant. -/
theorem booted_inv (s : State) : Inv (booted s) where
  progress := by rw [booted_initDone]
  complete _ := booted_initDone s
  table8 := by
    rw [booted_initDone, booted_table8, show min Config.initWrites Config.t8Entries = Config.t8Entries by decide]
    exact builtTable_built (by decide) (by decide)
  table16 := by
    rw [booted_initDone, booted_table16, show Config.initWrites - Config.t8Entries = Config.t16Entries by decide]
    exact builtTable_built (by decide) (by decide)
  record := by simp [RecordLegal]

/-- The state INIT leaves is ready to serve. -/
theorem booted_serving (s : State) : Serving (booted s) := ⟨rfl, rfl, booted_inv s⟩

/-- The packets on the port have no part in the invariant. -/
theorem setCmds_inv {s : State} (h : Inv s) (ps : List Packet) : Inv (setCmds ps s) :=
  ⟨h.progress, h.complete, h.table8, h.table16, h.record⟩

/-- The packets on the port have no part in serving. -/
theorem setCmds_serving {s : State} (h : Serving s) (ps : List Packet) : Serving (setCmds ps s) :=
  ⟨h.1, h.2.1, setCmds_inv h.2.2 ps⟩

end Sys2Proof.Machine
end

