-- ==== Sys2Proof/Laws/PerInstr.lean ====
section
/-! SUPPORT. Statements about every instruction, one lemma per constructor. -/

namespace Sys2Proof.Laws

/-- The packet of a command holds its code and its operand in their fields, and is well formed (`30_encoding.md` R60,
R62). -/
def EncodeFields.Statement (i : Instr) : Prop :=
  packetCode (encode i) = i.code ∧ packetOperand (encode i) = i.operand ∧ i.wellFormed = true ∧
    Packet.wellFormed (encode i) = true

/-- A packet with a legal code is well formed. -/
theorem encode_wellFormed {i : Instr} (h : legalCode i.code = true) : Packet.wellFormed (encode i) = true := by
  have : Packet.wellFormed (encode i) = legalCode (packetCode (encode i)) := rfl
  rw [this, encode, packetCode_mkPacket, h]

theorem EncodeFields.popcntIter (w : Word) : EncodeFields.Statement (.popcntIter w) :=
  ⟨packetCode_mkPacket _ _, packetOperand_mkPacket _ _, rfl, encode_wellFormed rfl⟩

theorem EncodeFields.popcntSparse (w : Word) : EncodeFields.Statement (.popcntSparse w) :=
  ⟨packetCode_mkPacket _ _, packetOperand_mkPacket _ _, rfl, encode_wellFormed rfl⟩

theorem EncodeFields.popcntDense (w : Word) : EncodeFields.Statement (.popcntDense w) :=
  ⟨packetCode_mkPacket _ _, packetOperand_mkPacket _ _, rfl, encode_wellFormed rfl⟩

theorem EncodeFields.popcntBytetab (w : Word) : EncodeFields.Statement (.popcntBytetab w) :=
  ⟨packetCode_mkPacket _ _, packetOperand_mkPacket _ _, rfl, encode_wellFormed rfl⟩

theorem EncodeFields.popcntHalftab (w : Word) : EncodeFields.Statement (.popcntHalftab w) :=
  ⟨packetCode_mkPacket _ _, packetOperand_mkPacket _ _, rfl, encode_wellFormed rfl⟩

theorem EncodeFields.popcntFold (w : Word) : EncodeFields.Statement (.popcntFold w) :=
  ⟨packetCode_mkPacket _ _, packetOperand_mkPacket _ _, rfl, encode_wellFormed rfl⟩

theorem EncodeFields.revbits (w : Word) : EncodeFields.Statement (.revbits w) :=
  ⟨packetCode_mkPacket _ _, packetOperand_mkPacket _ _, rfl, encode_wellFormed rfl⟩

end Sys2Proof.Laws
end

