-- ==== Sys2Proof/Laws/Popcount.lean ====
section
/-! SUPPORT. The count of set bits as a sum: its bound, and how it splits over slices of a word. -/

namespace Sys2Proof.Machine

/-- The count up to a bit is a sum over the bits below it. -/
theorem popcountUpTo_eq_sum {n : Nat} (w : BitVec n) (k : Nat) :
    popcountUpTo w k = ∑ i ∈ Finset.range k, (w.getLsbD i).toNat := by
  induction k with
  | zero => rfl
  | succ k ih => rw [popcountUpTo, ih, Finset.sum_range_succ]

/-- The count is the sum of the bits (`00_scope.md` R9). -/
theorem popcount_eq_sum {n : Nat} (w : BitVec n) :
    popcount w = ∑ i ∈ Finset.range n, (w.getLsbD i).toNat := popcountUpTo_eq_sum w n

/-- A count is at most the width. -/
theorem popcount_le {n : Nat} (w : BitVec n) : popcount w ≤ n := by
  rw [popcount_eq_sum]
  calc _ ≤ ∑ _i ∈ Finset.range n, 1 := Finset.sum_le_sum fun i _ => Bool.toNat_le _
    _ = n := by simp

/-- The count of a slice is the sum of the bits it covers. -/
theorem popcount_slice {n : Nat} (w : BitVec n) (a l : Nat) :
    popcount (w.extractLsb' a l) = ∑ i ∈ Finset.range l, (w.getLsbD (a + i)).toNat := by
  rw [popcount_eq_sum]
  refine Finset.sum_congr rfl fun i hi => ?_
  rw [BitVec.getLsbD_extractLsb']
  simp [Finset.mem_range.1 hi]

/-- The count of two slices side by side. -/
theorem popcount_slice_add {n : Nat} (w : BitVec n) (a l m : Nat) :
    popcount (w.extractLsb' a (l + m)) = popcount (w.extractLsb' a l) + popcount (w.extractLsb' (a + l) m) := by
  simp only [popcount_slice, Finset.sum_range_add, Nat.add_assoc]

/-- The slice that is the whole word. -/
theorem popcount_slice_all {n : Nat} (w : BitVec n) : popcount (w.extractLsb' 0 n) = popcount w := by
  rw [popcount_slice, popcount_eq_sum]; simp

/-- The zero word has no set bits, at any width. -/
theorem popcount_zero {n : Nat} : popcount (0 : BitVec n) = 0 := by
  rw [popcount_eq_sum]; simp

/-- A slice as a number. -/
theorem slice_toNat (v : Word) (a l : Nat) : (v.extractLsb' a l).toNat = v.toNat / 2 ^ a % 2 ^ l := by
  simp [BitVec.extractLsb'_toNat, Nat.shiftRight_eq_div_pow]

/-- Adding two numbers whose digits never carry adds them digit by digit. -/
theorem digit_add (B : Nat) (hB : 0 < B) : ∀ (m x y : Nat), (∀ j, x / B ^ j % B + y / B ^ j % B < B) →
    (x + y) / B ^ m = x / B ^ m + y / B ^ m := by
  intro m
  induction m with
  | zero => simp
  | succ m ih =>
    intro x y h
    have h0 := h 0
    simp only [pow_zero, Nat.div_one] at h0
    have e : (x + y) / B = x / B + y / B := by
      rw [Nat.add_div hB, if_neg (by omega), Nat.add_zero]
    rw [pow_succ', ← Nat.div_div_eq_div_mul, ← Nat.div_div_eq_div_mul, ← Nat.div_div_eq_div_mul, e]
    refine ih _ _ fun j => ?_
    have := h (j + 1)
    rwa [pow_succ', ← Nat.div_div_eq_div_mul, ← Nat.div_div_eq_div_mul] at this

end Sys2Proof.Machine
end

