-- ==== Sys2Proof/Tests/Slice0.lean ====
section
/-! SUPPORT. Tests and witnesses. Every expected value is a number printed in spec/, most in `95_test_vectors.md`. -/

namespace Sys2Proof.Tests

open Sys2Proof Sys2Proof.Machine

/-! Small states -/

/-- READY with the given packets on the port and no table entry written: enough for the commands that read no table. -/
def bare (ps : List Packet) : State := { State.reset with mode := .ready, cmds := ps }

/-- READY with the eight TABLE8 entries and the four TABLE16 entries that the word 0x0123456789ABCDEF reads, as
`95_test_vectors.md` section 4 gives them. -/
def sampleTables (ps : List Packet) : State :=
  { bare ps with
    table8 := [(0x01, 1), (0x23, 3), (0x45, 3), (0x67, 5), (0x89, 3), (0xAB, 5), (0xCD, 5), (0xEF, 7)]
    table16 := [(0x0123, 4), (0x4567, 8), (0x89AB, 8), (0xCDEF, 12)] }

/-- INIT with TABLE8 built and 44 entries of TABLE16 written. -/
def midInit : State :=
  { State.reset with table8 := builtTable 256, table16 := builtTable 44, initDone := 300 }

/-- INIT with every entry written. -/
def endInit : State := { booted State.reset with mode := .init }

/-- INIT with one entry of TABLE16 still to be written. -/
def lastWrite : State :=
  { State.reset with table8 := builtTable 256, table16 := builtTable 65535, initDone := 65791 }

/-- FAULTED by the packet 0x70000000000001234 (`95_test_vectors.md` program 4). -/
def faulted : State :=
  { booted State.reset with mode := .faulted, cause := .illegalCommand, fcmd := 7, fword := 0x1234 }

/-- The last response of a next state. -/
def lastResponse (o : Host.Outcome State Fault Refusal) : Option Word :=
  match o with
  | .next s => rspResult s
  | .fault _ => none
  | .refused _ => none

/-- STATUS, FWORD and the number of responses of a next state. -/
def seen (o : Host.Outcome State Fault Refusal) : Option (BitVec 8 × Word × Nat) :=
  match o with
  | .next s => some (readStatus s, readFword s, s.responses.length)
  | .fault _ => none
  | .refused _ => none

/-! WellFormed: the check refuses each reserved code, whatever the operand (`30_encoding.md` R64) -/

theorem test_reserved_codes_refused :
    [6, 7, 9, 10, 11, 12, 13, 14, 15].map legalCode = [false, false, false, false, false, false, false, false, false] := by
  decide

theorem test_ill_formed_packets_refused :
    [0x60000000000000000#68, 0x70000000000001234#68, 0x90000000000000000#68, 0xFFFFFFFFFFFFFFFFF#68].map
      Packet.wellFormed = [false, false, false, false] := by
  decide

theorem test_nearest_legal_packets_accepted :
    [0x50000000000000000#68, 0x80000000000000000#68].map Packet.wellFormed = [true, true] := by
  decide

theorem test_every_operand_is_well_formed : (Instr.popcntIter 0).wellFormed = true := by
  decide

/-! Decode: words written out from the encoding (`30_encoding.md` R60, R63; `95_test_vectors.md` section 2) -/

theorem test_decode_iter : decode 0x000000000000000B5#68 = .legal (.popcntIter 0xB5) := by decide

theorem test_decode_sparse : decode 0x100000000000000B5#68 = .legal (.popcntSparse 0xB5) := by decide

theorem test_decode_dense : decode 0x27FFFFFFFFFFFFF0F#68 = .legal (.popcntDense 0x7FFFFFFFFFFFFF0F) := by decide

theorem test_decode_bytetab : decode 0x30123456789ABCDEF#68 = .legal (.popcntBytetab 0x0123456789ABCDEF) := by decide

theorem test_decode_halftab : decode 0x40123456789ABCDEF#68 = .legal (.popcntHalftab 0x0123456789ABCDEF) := by decide

theorem test_decode_fold : decode 0x5AAAAAAAAAAAAAAAA#68 = .legal (.popcntFold 0xAAAAAAAAAAAAAAAA) := by decide

theorem test_decode_revbits : decode 0x88000000000000001#68 = .legal (.revbits 0x8000000000000001) := by decide

theorem test_decode_reserved_six : decode 0x60000000000000000#68 = .illegal 6 0 := by decide

theorem test_decode_reserved_fifteen : decode 0xFFFFFFFFFFFFFFFFF#68 = .illegal 15 0xFFFFFFFFFFFFFFFF := by decide

theorem test_decode_bit_by_bit : decode
    0b10000000000000000000000000000000000000000000000000000000000000000001#68 = .legal (.revbits 1) := by decide

theorem test_decode_one : decode 0x80000000000000001#68 = .legal (.revbits 1) := by decide

theorem test_table_word_seventy_two_bits :
    decodeTableWord 72 0x500000000000000FF = some (.popcntFold 0xFF) := by decide

theorem test_table_word_above_packet : decodeTableWord 72 0x1500000000000000FF = none := by decide

theorem test_encode_fold : encode (.popcntFold 0xFF) = 0x500000000000000FF#68 := by decide

/-! The text (`30_encoding.md` R66, R67) -/

theorem test_assemble_example :
    assembleLine ['P', 'O', 'P', 'C', 'N', 'T', '.', 'F', 'O', 'L', 'D', ' ', '0', 'x', 'F', 'F', ' ', ' ', ' ', ';',
      ' ', '-', '>', ' ', '8'] = .command (.popcntFold 0xFF) := by
  decide

theorem test_assemble_decimal :
    assembleLine ['R', 'E', 'V', 'B', 'I', 'T', 'S', ' ', ' ', '1', '8', '4', '4', '6', '7', '4', '4', '0', '7', '3', '7',
      '0', '9', '5', '5', '1', '6', '1', '5'] = .command (.revbits 0xFFFFFFFFFFFFFFFF) := by
  decide

theorem test_assemble_decimal_too_large :
    assembleLine ['R', 'E', 'V', 'B', 'I', 'T', 'S', ' ', '1', '8', '4', '4', '6', '7', '4', '4', '0', '7', '3', '7',
      '0', '9', '5', '5', '1', '6', '1', '6'] = .bad := by
  decide

theorem test_assemble_population_count :
    assembleLine ['p', 'o', 'p', 'u', 'l', 'a', 't', 'i', 'o', 'n', 'C', 'o', 'u', 'n', 't', '(', '0', 'x', 'F', 'F', ',',
      ' ', 'F', 'o', 'l', 'd', 'i', 'n', 'g', ')'] = .command (.popcntFold 0xFF) := by
  decide

theorem test_assemble_reverse_bits :
    assembleLine ['r', 'e', 'v', 'e', 'r', 's', 'e', 'B', 'i', 't', 's', '(', '1', ')'] = .command (.revbits 1) := by
  decide

theorem test_assemble_comment_line : assembleLine [';', ' ', 's', 't', 'a', 'r', 't'] = .blank := by decide

/-! Commands, one step each (`95_test_vectors.md` sections 3 to 7) -/

theorem test_iter : lastResponse (step (bare [0x000000000000000B5#68])) = some 5 := by decide

theorem test_iter_largest : lastResponse (step (bare [0x07FFFFFFFFFFFFFFF#68])) = some 63 := by decide +kernel

theorem test_sparse : lastResponse (step (bare [0x14000000000000000#68])) = some 1 := by decide

theorem test_sparse_negative_faults :
    seen (step (bare [0x18000000000000000#68])) = some (0x1A, 0x8000000000000000, 0) := by decide

theorem test_dense : lastResponse (step (bare [0x27FFFFFFFFFFFFF0F#68])) = some 59 := by decide

theorem test_dense_negative_faults :
    seen (step (bare [0x2AAAAAAAAAAAAAAAA#68])) = some (0x2A, 0xAAAAAAAAAAAAAAAA, 0) := by decide

theorem test_iter_zero_faults : seen (step (bare [0x00000000000000000#68])) = some (0x0A, 0, 0) := by decide

theorem test_bytetab : lastResponse (step (sampleTables [0x30123456789ABCDEF#68])) = some 32 := by decide

theorem test_halftab : lastResponse (step (sampleTables [0x40123456789ABCDEF#68])) = some 32 := by decide

theorem test_fold : lastResponse (step (bare [0x5DEADBEEFCAFEF00D#68])) = some 42 := by decide

theorem test_fold_all_ones : lastResponse (step (bare [0x5FFFFFFFFFFFFFFFF#68])) = some 64 := by decide

theorem test_revbits : lastResponse (step (bare [0x80123456789ABCDEF#68])) = some 0xF7B3D591E6A2C480 := by decide

theorem test_revbits_sign_bit : lastResponse (step (bare [0x88000000000000000#68])) = some 1 := by decide

theorem test_reserved_seven : seen (step (bare [0x70000000000001234#68])) = some (0x76, 0x1234, 0) := by decide

theorem test_reserved_fifteen :
    seen (step (bare [0xFFFFFFFFFFFFFFFFF#68])) = some (0xF6, 0xFFFFFFFFFFFFFFFF, 0) := by decide

theorem test_not_strict_zero :
    lastResponse (execPopcntIterWith false 0 (bare [])) = some 0 ∧
      lastResponse (execPopcntSparseWith false 0x8000000000000000 (bare [])) = some 1 ∧
      lastResponse (execPopcntDenseWith false 0xAAAAAAAAAAAAAAAA (bare [])) = some 32 := by
  decide

/-! Datapath (`95_test_vectors.md` sections 4 to 6) -/

theorem test_swap_stage_shift_is_logical : swapStage 0x8000000000000000 5 = 0x0000000080000000 := by decide

theorem test_stages_ascending : swapStages 0xB5 [0, 1, 2] = 0xAD := by decide

theorem test_fold_rounds : foldRounds 0xDEADBEEFCAFEF00D [0, 1, 2, 3] = 0x000B000D000B0007 := by decide

theorem test_built_entries :
    [0x00, 0x01, 0x0F, 0x55, 0x7F, 0x80, 0xB5, 0xFE, 0xFF].map builtEntry = [0, 1, 4, 4, 7, 1, 5, 7, 8] := by decide

theorem test_built_entries_halfword :
    [0x5555, 0x7FFF, 0x8000, 0xFFFE, 0xFFFF, 0xBEEF].map builtEntry = [8, 15, 1, 15, 16, 13] := by decide

/-! The port side (`30_encoding.md` R71) and one step after a placed word (log entry 8) -/

theorem test_ports :
    (cmdValid (bare [0x500000000000000FF#68]), cmdReady (bare []), cmdCode (bare [0x500000000000000FF#68]),
      cmdWord (bare [0x500000000000000FF#68]), statusPort (bare [])) = (true, true, some 5, some 0xFF, 0x01) := by
  decide

theorem test_placed_word_runs_next :
    lastResponse (step (State.reset.withFetchWord 72 0x50123456789ABCDEF)) = some 32 := by decide

theorem test_reset_clears_fault :
    seen (step (requestReset (bare []))) = some (0x00, 0, 0) := by decide

theorem test_first_write : (initialiserStep State.reset).table8 = [(0, 0)] := by decide

/-! Witnesses: for each statement with hypotheses, a state and operands that meet them -/

/-- Inv of INIT under way. -/
theorem midInit_inv : Inv midInit where
  progress := by decide
  complete h := absurd rfl h
  table8 := builtTable_built (n := 8) (k := 256) (by decide) (by decide)
  table16 := builtTable_built (n := 16) (k := 44) (by decide) (by decide)
  record := by simp [RecordLegal, midInit]

/-- Inv of INIT with one entry still to be written. -/
theorem lastWrite_inv : Inv lastWrite where
  progress := by decide
  complete h := absurd rfl h
  table8 := builtTable_built (n := 8) (k := 256) (by decide) (by decide)
  table16 := builtTable_built (n := 16) (k := 65535) (by decide) (by decide)
  record := by simp [RecordLegal, lastWrite]

/-- Inv of INIT with every entry written. -/
theorem endInit_inv : Inv endInit where
  progress := (booted_inv State.reset).progress
  complete h := absurd rfl h
  table8 := (booted_inv State.reset).table8
  table16 := (booted_inv State.reset).table16
  record := by simp [RecordLegal, endInit]

/-- Inv of a state that a reserved code stopped. -/
theorem faulted_inv : Inv faulted where
  progress := (booted_inv State.reset).progress
  complete _ := rfl
  table8 := (booted_inv State.reset).table8
  table16 := (booted_inv State.reset).table16
  record := by simp [RecordLegal, faulted, legalCode]

/-- Inv of a state that a non-positive operand stopped. -/
theorem refusedOperand_inv : Inv (raiseFault .domainViolation 2 0 (booted State.reset)) where
  progress := (booted_inv State.reset).progress
  complete _ := rfl
  table8 := (booted_inv State.reset).table8
  table16 := (booted_inv State.reset).table16
  record := ⟨rfl, by decide, .inl rfl⟩

/-- A serving state with any packets on its port. -/
theorem serving_with (ps : List Packet) : Serving (setCmds ps (booted State.reset)) :=
  setCmds_serving (booted_serving _) ps

theorem witness_DecodeAndEncodeAreInverse :
    decode 0x88000000000000001#68 = .legal (.revbits 0x8000000000000001) := by decide

theorem witness_ResetIsHonouredInEveryMode :
    (requestReset midInit).rst = true ∧ (requestReset (bare [])).rst = true ∧ (requestReset faulted).rst = true := by
  decide

theorem witness_ResetLeadsToReady : (requestReset (bare [0x500000000000000FF#68])).rst = true := by decide

theorem witness_InitialiserWritesOneEntry_table8 :
    ({ State.reset with initDone := 255 }).rst = false ∧ ({ State.reset with initDone := 255 }).mode = .init ∧
      ({ State.reset with initDone := 255 }).initDone < 256 := by
  decide

theorem witness_InitialiserWritesOneEntry_table16 :
    (∃ s : State, s.rst = false ∧ s.mode = .init ∧ s.initDone = 256 ∧ 256 ≤ s.initDone ∧ s.initDone < 65792) ∧
      ∃ s : State, s.rst = false ∧ s.mode = .init ∧ s.initDone = 65791 ∧ 256 ≤ s.initDone ∧ s.initDone < 65792 :=
  ⟨⟨{ State.reset with initDone := 256 }, rfl, rfl, rfl, by decide, by decide⟩,
    ⟨{ State.reset with initDone := 65791 }, rfl, rfl, rfl, by decide, by decide⟩⟩

theorem witness_InitHoldsEveryCommand_writing :
    Inv lastWrite ∧ lastWrite.rst = false ∧ lastWrite.mode = .init ∧ lastWrite.initDone = 65791 ∧
      lastWrite.initDone < 65792 :=
  ⟨lastWrite_inv, rfl, rfl, rfl, by decide⟩

theorem witness_InitHoldsEveryCommand_ending :
    Inv endInit ∧ endInit.rst = false ∧ endInit.mode = .init ∧ endInit.initDone = 65792 :=
  ⟨endInit_inv, rfl, rfl, rfl⟩

theorem witness_InitFinishesFromAnyPoint :
    Inv midInit ∧ midInit.rst = false ∧ midInit.mode = .init ∧ 65492 ≤ 65792 - midInit.initDone :=
  ⟨midInit_inv, rfl, rfl, by decide⟩

theorem witness_SparseLoopClearsLowestBit :
    (0x8000000000000000 : Word).getLsbD 63 = true ∧ (∀ i < 63, (0x8000000000000000 : Word).getLsbD i = false) ∧
      (0xB5 : Word).getLsbD 0 = true ∧ ∀ i < 0, (0xB5 : Word).getLsbD i = false := by
  decide

theorem witness_iterative_positive :
    (bare []).mode = .ready ∧ 0 < (1 : Word).toInt ∧ 0 < (0x7FFFFFFFFFFFFFFF : Word).toInt := by decide

theorem witness_iterative_nonpositive :
    (bare []).mode = .ready ∧ (0 : Word).toInt ≤ 0 ∧ (0x8000000000000000 : Word).toInt ≤ 0 := by decide

theorem witness_DenseCountsByComplement : (0x7FFFFFFFFFFFFFFF : Word).getLsbD 63 = false := by decide

theorem witness_GuardOnIterativeCommandsOnly :
    ∃ t, exec (.popcntSparse 0) (bare []) = .next t ∧ t.mode = .faulted :=
  ⟨raiseFault .domainViolation 1 0 (bare []), rfl, rfl⟩

theorem witness_tables_built : TableBuilt 8 (builtTable 256) 256 ∧ TableBuilt 16 (builtTable 65536) 65536 :=
  ⟨builtTable_built (by decide) (by decide), builtTable_built (by decide) (by decide)⟩

theorem witness_LanesPartitionTheWord : 7 < 8 ∧ 3 < 4 ∧ 15 < 16 ∧ TableBuilt 8 (builtTable 256) 256 :=
  ⟨by decide, by decide, by decide, witness_tables_built.1⟩

theorem witness_table_commands :
    (booted State.reset).mode = .ready ∧ TableBuilt 8 (booted State.reset).table8 256 ∧
      TableBuilt 16 (booted State.reset).table16 65536 :=
  ⟨rfl, witness_tables_built⟩

theorem witness_UnwrittenEntryHasNoMeaning :
    (bare []).mode = .ready ∧ (∃ i ∈ byteIndices 0, (bare []).table8.read i = none) ∧
      (∃ i ∈ halfIndices 0, (bare []).table16.read i = none) ∧ State.reset.mode = .init := by
  decide

theorem witness_FoldLanesHoldTheirOwnCounts : 31 < 2 ^ (5 - (0 : Fin 6).val) ∧ 0 < 2 ^ (5 - (5 : Fin 6).val) := by
  decide

theorem witness_SwapStagesCommute : List.Perm ([0, 1, 2, 3, 4, 5] : List (Fin 6)) [5, 4, 3, 2, 1, 0] := by decide

theorem witness_serving : Serving (booted State.reset) ∧ 0 < (0xB5 : Word).toInt := ⟨booted_serving _, by decide⟩

theorem witness_CountCommandsAgreeOnSharedDomain :
    ∃ t, exec (.popcntFold 1) (booted State.reset) = .next t ∧ t.mode = .ready :=
  ⟨respond (zext64 (foldFn 1)) (booted State.reset), execPopcntFold_ready rfl _, rfl⟩

theorem witness_ReversalKeepsTheCount :
    ∃ t u, exec (.popcntFold 2) (booted State.reset) = .next t ∧
      exec (.popcntFold (revFn 2)) (booted State.reset) = .next u ∧ t.mode = .ready ∧ u.mode = .ready :=
  ⟨respond (zext64 (foldFn 2)) (booted State.reset), respond (zext64 (foldFn (revFn 2))) (booted State.reset),
    execPopcntFold_ready rfl _, execPopcntFold_ready rfl _, rfl, rfl⟩

theorem witness_ReservedCodeRaisesIllegalCommand :
    (bare [0x60000000000000000#68]).rst = false ∧ (bare [0x60000000000000000#68]).mode = .ready ∧
      (packetCode 0x60000000000000000#68).toNat ∈ [6, 7, 9, 10, 11, 12, 13, 14, 15] ∧
      (packetCode 0xFFFFFFFFFFFFFFFFF#68).toNat ∈ [6, 7, 9, 10, 11, 12, 13, 14, 15] := by
  decide

theorem witness_NonPositiveOperandRaisesDomainViolation :
    (packetCode 0x00000000000000000#68).toNat ∈ [0, 1, 2] ∧ packetOperand 0x00000000000000000#68 = 0 ∧
      (packetCode 0x28000000000000000#68).toNat ∈ [0, 1, 2] ∧
      (packetOperand 0x28000000000000000#68).getLsbD 63 = true := by
  decide

theorem witness_fault_records :
    Inv faulted ∧ faulted.cause = .illegalCommand ∧ Inv (raiseFault .domainViolation 2 0 (booted State.reset)) ∧
      (raiseFault .domainViolation 2 0 (booted State.reset)).cause = .domainViolation ∧
      ∃ t, execPopcntDenseWith false 0 (bare []) = .next t :=
  ⟨faulted_inv, rfl, refusedOperand_inv, rfl, _, guardedCount_ready rfl _ _ _ _⟩

/-- The witness of the odd-word clause of ReversalKeepsTheCount. -/
theorem witness_ReversalKeepsTheCount_odd : (1 : Word).getLsbD 0 = true ∧ (bare []).mode = .ready := by decide

theorem witness_RangeOfCountsAndKnownValues :
    ∃ t, Serving (booted State.reset) ∧ exec (.popcntIter 0x7FFFFFFFFFFFFFFF) (booted State.reset) = .next t ∧
      t.mode = .ready :=
  ⟨_, booted_serving _, execPopcntIter_ready rfl _, rfl⟩

theorem witness_FaultsArePrecise :
    ∃ t, (bare [0x70000000000001234#68]).rst = false ∧ (bare [0x70000000000001234#68]).mode = .ready ∧
      step (bare [0x70000000000001234#68]) = .next t ∧ t.mode = .faulted :=
  ⟨raiseFault .illegalCommand 7 0x1234 (bare []), rfl, rfl, rfl, rfl⟩

theorem witness_FaultedHoldsUntilReset :
    faulted.rst = false ∧ faulted.mode = .faulted ∧
      ∃ t, step (requestReset faulted) = .next t ∧ (requestReset faulted).mode = .faulted ∧ t.mode ≠ .faulted :=
  ⟨rfl, rfl, takeReset (requestReset faulted), step_rst rfl, rfl, by simp⟩

theorem witness_FaultedHoldsUntilReset_idle :
    (booted State.reset).rst = false ∧ (booted State.reset).mode = .ready ∧ (booted State.reset).cmds = [] :=
  ⟨rfl, rfl, rfl⟩

theorem witness_RecordWrittenAtFaultEntryOnly :
    ∃ t, step (bare [0x18000000000000000#68]) = .next t ∧ (bare [0x18000000000000000#68]).rst = false :=
  ⟨raiseFault .domainViolation 1 0x8000000000000000 (bare []), rfl, rfl⟩

theorem witness_ModeTransitions :
    (∃ t, Inv endInit ∧ step endInit = .next t) ∧ (∃ t, Inv faulted ∧ step faulted = .next t) ∧
      ∃ t, Inv (booted State.reset) ∧ step (booted State.reset) = .next t :=
  ⟨⟨_, endInit_inv, step_init rfl rfl⟩, ⟨_, faulted_inv, step_faulted rfl rfl⟩,
    ⟨_, booted_inv _, step_idle rfl rfl rfl⟩⟩

theorem witness_StatusIsLegal : Inv midInit ∧ midInit.mode = .init ∧ Inv (booted State.reset) ∧
    (booted State.reset).mode = .ready ∧ Inv faulted :=
  ⟨midInit_inv, rfl, booted_inv _, rfl, faulted_inv⟩

theorem witness_InvariantKeptByEveryStep : Inv midInit ∧ step midInit = .next (initialiserStep midInit) :=
  ⟨midInit_inv, step_init rfl rfl⟩

theorem witness_TablesCompleteAndFrozen :
    Inv faulted ∧ faulted.mode ≠ .init ∧ step faulted = .next faulted ∧ faulted.rst = false :=
  ⟨faulted_inv, by decide, step_faulted rfl rfl, rfl⟩

theorem witness_CommandsHeldOutsideReady :
    midInit.mode = .init ∧ faulted.mode = .faulted ∧ step faulted = .next faulted :=
  ⟨rfl, rfl, step_faulted rfl rfl⟩

theorem witness_StepRunsThePresentedCommand :
    (bare [0x80000000000000001#68]).rst = false ∧ (bare [0x80000000000000001#68]).mode = .ready ∧
      decode 0x80000000000000001#68 = .legal (.revbits 1) := by
  decide

theorem witness_CommandFrame : ∃ t u, exec (.revbits 1) (bare []) = .next t ∧ exec (.popcntIter 0) (bare []) = .next u :=
  ⟨respond (revFn 1) (bare []), raiseFault .domainViolation 0 0 (bare []), rfl, rfl⟩

theorem witness_CommandLeavesNoTrace :
    ∃ t, Serving (setCmds [0x80000000000000001#68] (booted State.reset)) ∧
      step (setCmds [0x80000000000000001#68] (booted State.reset)) = .next t ∧ t.mode = .ready :=
  ⟨respond (revFn 1) (setCmds [] (booted State.reset)), serving_with _, by
    rw [step_accept (p := 0x80000000000000001#68) (ps := []) rfl rfl rfl, test_decode_one]
    exact execRevbits_ready rfl 1, rfl⟩

theorem witness_EngineMeetsItsReference :
    Serving (setCmds [0x40123456789ABCDEF#68] (booted State.reset)) ∧
      (setCmds [0x40123456789ABCDEF#68] (booted State.reset)).cmds = [0x40123456789ABCDEF#68] :=
  ⟨serving_with _, rfl⟩

theorem witness_RunAnswersInOrder :
    Serving (setCmds [0x800000000000000B5#68, 0x5AD00000000000000#68] (booted State.reset)) ∧
      firstFault Config.strictDomain [0x800000000000000B5#68, 0x5AD00000000000000#68] = none :=
  ⟨serving_with _, by decide⟩

theorem witness_RunStopsAtFirstFault :
    Serving (setCmds [0x50000000000000000#68, 0x10000000000000000#68, 0x50000000000000001#68] (booted State.reset)) ∧
      firstFault Config.strictDomain [0x50000000000000000#68, 0x10000000000000000#68, 0x50000000000000001#68] =
        some (0x10000000000000000#68, .domainViolation, [0x50000000000000001#68]) :=
  ⟨serving_with _, by decide⟩

theorem witness_ResponsesOnlyGrow :
    (∃ t, step (bare [0x80000000000000001#68]) = .next t) ∧ (∃ t, step (bare [0x60000000000000000#68]) = .next t) ∧
      ∃ t, step (requestReset (bare [0x80000000000000001#68])) = .next t :=
  ⟨⟨respond (revFn 1) (bare []), rfl⟩, ⟨raiseFault .illegalCommand 6 0 (bare []), rfl⟩, ⟨_, step_rst rfl⟩⟩

end Sys2Proof.Tests
end

section
/-! PROOF. The domain guard: which operands it turns away, and which commands make the test (`00_scope.md` R8,
`40_popcount_iterative.md` R80, R81). -/

namespace Sys2Proof.Machine

/-! The test on the operand -/

/-- Bit 63 is the sign of the signed reading (`00_scope.md` R5). -/
theorem getLsbD_63_iff_toInt_neg (w : Word) : w.getLsbD 63 = true ↔ w.toInt < 0 := by
  rw [← BitVec.msb_eq_getLsbD_last, BitVec.msb_eq_toInt, decide_eq_true_iff]

theorem nonPositive_iff (w : Word) : nonPositive w = true ↔ w = 0 ∨ w.getLsbD 63 = true := by
  simp [nonPositive]

theorem nonPositive_eq_false_iff (w : Word) : nonPositive w = false ↔ w ≠ 0 ∧ w.getLsbD 63 = false := by
  simp [nonPositive]

theorem nonPositive_iff_toInt_le_zero (w : Word) : nonPositive w = true ↔ w.toInt ≤ 0 := by
  have hzero : w = 0 ↔ w.toInt = 0 := BitVec.toInt_inj.symm
  rw [nonPositive_iff, getLsbD_63_iff_toInt_neg, hzero]
  omega

theorem outsideDomain_iff (strict : Bool) (w : Word) :
    outsideDomain strict w = true ↔ strict = true ∧ (w = 0 ∨ w.getLsbD 63 = true) := by
  rw [outsideDomain, Bool.and_eq_true, nonPositive_iff]

@[simp] theorem outsideDomain_false (w : Word) : outsideDomain false w = false := rfl

/-! The commands that make the test -/

/-- A guarded command that ends in FAULTED was given an operand the guard turns away. -/
theorem outsideDomain_of_guardedCount_faulted {strict : Bool} {code : Code} {w : Word} {fn : Word → Count}
    {s t : State} (h : guardedCount strict code w fn s = .next t) (ht : t.mode = .faulted) :
    outsideDomain strict w = true := by
  obtain ⟨hs, ⟨hout, -⟩ | ⟨-, rfl⟩⟩ := guardedCount_next h
  · exact hout
  · simp [hs] at ht

/-- A command without a guard can only respond, so it does not end in FAULTED. -/
theorem not_faulted_of_respond {s t : State} {r : Word} (hs : s.mode = .ready) (h : t = respond r s) :
    t.mode ≠ .faulted := by
  simp [h, hs]

/-- The only commands that end in FAULTED are codes 0, 1 and 2, on an operand the guard turns away. -/
theorem exec_faulted {i : Instr} {s t : State} (h : exec i s = .next t) (ht : t.mode = .faulted) :
    i.code.toNat < 3 ∧ outsideDomain Config.strictDomain i.operand = true := by
  have hs : s.mode = .ready := (exec_next h).1
  cases i with
  | popcntIter w => exact ⟨by simp [Instr.code], outsideDomain_of_guardedCount_faulted h ht⟩
  | popcntSparse w => exact ⟨by simp [Instr.code], outsideDomain_of_guardedCount_faulted h ht⟩
  | popcntDense w => exact ⟨by simp [Instr.code], outsideDomain_of_guardedCount_faulted h ht⟩
  | popcntBytetab w =>
    rw [execPopcntBytetab_ready hs] at h
    obtain ⟨n, -, hr⟩ := respondSum_next h
    exact absurd ht (not_faulted_of_respond hs hr)
  | popcntHalftab w =>
    rw [execPopcntHalftab_ready hs] at h
    obtain ⟨n, -, hr⟩ := respondSum_next h
    exact absurd ht (not_faulted_of_respond hs hr)
  | popcntFold w =>
    rw [execPopcntFold_ready hs] at h
    injection h with h
    exact absurd ht (not_faulted_of_respond hs h.symm)
  | revbits w =>
    rw [execRevbits_ready hs] at h
    injection h with h
    exact absurd ht (not_faulted_of_respond hs h.symm)

/-! The three guarded commands in READY, under either value of STRICT_DOMAIN -/

/-- In READY a guarded command ends in FAULTED on the operands the guard turns away, and in READY on all others. -/
theorem guardedCount_ready_mode {s : State} (hs : s.mode = .ready) (strict : Bool) (code : Code) (w : Word)
    (fn : Word → Count) :
    ∃ t, guardedCount strict code w fn s = .next t ∧ t.mode = if outsideDomain strict w then .faulted else .ready := by
  refine ⟨_, guardedCount_ready hs strict code w fn, ?_⟩
  split
  · rfl
  · exact hs

/-- The three iterative commands, under either value of STRICT_DOMAIN, are guarded counts. -/
theorem iterative_is_guardedCount {e : Bool → Word → State → Host.Outcome State Fault Refusal}
    (he : e ∈ [execPopcntIterWith, execPopcntSparseWith, execPopcntDenseWith]) :
    ∃ code fn, ∀ strict w s, e strict w s = guardedCount strict code w fn s := by
  simp only [List.mem_cons, List.not_mem_nil, or_false] at he
  rcases he with rfl | rfl | rfl
  · exact ⟨0b0000#4, iterFn, fun _ _ _ => rfl⟩
  · exact ⟨0b0001#4, sparseFn, fun _ _ _ => rfl⟩
  · exact ⟨0b0010#4, denseFn, fun _ _ _ => rfl⟩

/-- In READY the three iterative commands end in FAULTED on the operands the guard turns away, in READY on all
others. -/
theorem iterative_ready_mode {e : Bool → Word → State → Host.Outcome State Fault Refusal}
    (he : e ∈ [execPopcntIterWith, execPopcntSparseWith, execPopcntDenseWith]) {s : State} (hs : s.mode = .ready)
    (strict : Bool) (w : Word) :
    ∃ t, e strict w s = .next t ∧ t.mode = if outsideDomain strict w then .faulted else .ready := by
  obtain ⟨code, fn, hguard⟩ := iterative_is_guardedCount he
  rw [hguard]
  exact guardedCount_ready_mode hs strict code w fn

/-- Settles O19: every clause is a reading of `outsideDomain`, which `exec_faulted` and `iterative_ready_mode` tie to
the commands. -/
theorem guardOnIterativeCommandsOnly : Obligations.GuardOnIterativeCommandsOnly := by
  refine ⟨fun w => ⟨nonPositive_iff_toInt_le_zero w, nonPositive_eq_false_iff w⟩, ?_, ?_, ?_⟩
  · intro i s t h ht
    obtain ⟨hcode, hout⟩ := exec_faulted h ht
    exact ⟨hcode, (outsideDomain_iff _ _).1 hout⟩
  · intro w s hs e he
    obtain ⟨t, hnext, hmode⟩ := iterative_ready_mode he hs true w
    refine ⟨t, hnext, ?_⟩
    have hfault : t.mode = .faulted ↔ outsideDomain true w = true := by simp [hmode]
    rw [hfault, outsideDomain_iff, and_iff_right rfl]
  · intro w s hs e he
    obtain ⟨t, hnext, hmode⟩ := iterative_ready_mode he hs false w
    exact ⟨t, hnext, by simpa using hmode⟩

end Sys2Proof.Machine
end

section
/-! PROOF. STATUS: its three fields, and the values a legal fault record gives it (`10_state.md` R25,
`60_exceptions.md` R160). -/

namespace Sys2Proof.Machine

/-! The fields -/

@[simp] theorem readStatus_mode (s : State) : (readStatus s).extractLsb' 0 2 = modeCode s.mode :=
  BitVec.extractLsb'_append_eq_right

@[simp] theorem readStatus_cause (s : State) : (readStatus s).extractLsb' 2 2 = causeCode s.cause := by
  rw [readStatus, BitVec.extractLsb'_append_eq_of_le (by decide)]
  exact BitVec.extractLsb'_append_eq_right

@[simp] theorem readStatus_fcmd (s : State) : (readStatus s).extractLsb' 4 4 = s.fcmd := by
  rw [readStatus, BitVec.extractLsb'_append_eq_of_le (by decide)]
  exact BitVec.extractLsb'_append_eq_left

/-! The values -/

/-- The three kinds of a legal fault record. -/
theorem recordLegal_cases {s : State} (h : RecordLegal s) :
    (s.cause = .none ∧ s.mode ≠ .faulted ∧ s.fcmd = 0) ∨
    (s.cause = .illegalCommand ∧ s.mode = .faulted ∧ legalCode s.fcmd = false) ∨
    (s.cause = .domainViolation ∧ s.mode = .faulted ∧ s.fcmd.toNat < 3) := by
  unfold RecordLegal at h
  split at h
  · obtain ⟨hmode, hfcmd, -⟩ := h
    exact .inl ⟨‹_›, hmode, hfcmd⟩
  · exact .inr (.inl ⟨‹_›, h⟩)
  · obtain ⟨hmode, hfcmd, -⟩ := h
    exact .inr (.inr ⟨‹_›, hmode, hfcmd⟩)

/-- Outside FAULTED a legal record is clear, so STATUS is the code of the phase alone. -/
theorem readStatus_of_not_faulted {s : State} (h : RecordLegal s) (hm : s.mode ≠ .faulted) :
    readStatus s = (0#6 ++ modeCode s.mode : BitVec 8) := by
  obtain ⟨hcause, -, hfcmd⟩ | ⟨-, hf, -⟩ | ⟨-, hf, -⟩ := recordLegal_cases h
  · rw [readStatus, hcause, hfcmd]; rfl
  · exact absurd hf hm
  · exact absurd hf hm

/-- A reserved code recorded by IllegalCommand gives one of the nine values of the form `{FCMD, 01, 10}`. -/
theorem illegalCommand_status_legal : ∀ c : Code, legalCode c = false →
    (c ++ causeCode .illegalCommand) ++ modeCode .faulted ∈ legalStatus := by
  decide

/-- A guarded code recorded by DomainViolation gives one of the three values of the form `{FCMD, 10, 10}`. -/
theorem domainViolation_status_legal : ∀ c : Code, c.toNat < 3 →
    (c ++ causeCode .domainViolation) ++ modeCode .faulted ∈ legalStatus := by
  decide

/-- A legal fault record gives a legal STATUS. -/
theorem readStatus_legal {s : State} (h : RecordLegal s) : readStatus s ∈ legalStatus := by
  obtain ⟨-, hmode, -⟩ | ⟨hcause, hmode, hfcmd⟩ | ⟨hcause, hmode, hfcmd⟩ := recordLegal_cases h
  · rw [readStatus_of_not_faulted h hmode]
    cases hm : s.mode with
    | init => decide
    | ready => decide
    | faulted => exact absurd hm hmode
  · rw [readStatus, hcause, hmode]
    exact illegalCommand_status_legal _ hfcmd
  · rw [readStatus, hcause, hmode]
    exact domainViolation_status_legal _ hfcmd

/-- Settles O47: the fields are slices of an append, and the record clause of the invariant leaves the fourteen
values. -/
theorem statusIsLegal : Obligations.StatusIsLegal := by
  refine ⟨fun s => ⟨readStatus_mode s, readStatus_cause s, readStatus_fcmd s⟩,
    fun s h => readStatus_legal h.record, ?_, ?_⟩
  · intro s h hm
    rw [readStatus_of_not_faulted h.record (by simp [hm]), hm]
    rfl
  · intro s h hm
    rw [readStatus_of_not_faulted h.record (by simp [hm]), hm]
    rfl

end Sys2Proof.Machine
end

section
/-! PROOF. The tables outside INIT: complete, and left alone by every step but a reset (`10_state.md` R28,
`20_memory.md` R45). -/

namespace Sys2Proof.Machine

/-! What a built table reads -/

/-- A complete table of `n`-bit indices gives every index its count. -/
theorem TableBuilt.read_index {n : Nat} {t : Memory} (h : TableBuilt n t (2 ^ n)) (x : BitVec n) :
    t.read x.toNat = some (BitVec.ofNat 8 (popcount x)) := by
  obtain ⟨-, hread⟩ := h
  rw [hread, if_pos x.isLt, BitVec.ofNat_toNat, BitVec.setWidth_eq]

/-- How far a table is built determines everything it reads. -/
theorem TableBuilt.read_unique {n k : Nat} {t t' : Memory} (h : TableBuilt n t k) (h' : TableBuilt n t' k) :
    t.read = t'.read := by
  obtain ⟨-, hread⟩ := h
  obtain ⟨-, hread'⟩ := h'
  exact funext fun x => (hread x).trans (hread' x).symm

/-! The two tables outside INIT -/

theorem Inv.table8_complete {s : State} (h : Inv s) (hm : s.mode ≠ .init) :
    TableBuilt 8 s.table8 Config.t8Entries := by
  simpa [h.complete hm, Config.initWrites, Config.t8Entries] using h.table8

theorem Inv.table16_complete {s : State} (h : Inv s) (hm : s.mode ≠ .init) :
    TableBuilt 16 s.table16 Config.t16Entries := by
  simpa [h.complete hm, Config.initWrites, Config.t8Entries, Config.t16Entries] using h.table16

/-- Outside INIT a step without a reset request changes neither table: waiting, a response and a fault all keep
both. -/
theorem step_keeps_tables {s t : State} (hm : s.mode ≠ .init) (hr : s.rst = false) (h : step s = .next t) :
    t.table8 = s.table8 ∧ t.table16 = s.table16 := by
  obtain ⟨hr', -⟩ | ⟨-, hm', -⟩ | ⟨-, -, -, rfl⟩ | ⟨-, -, rfl⟩ | ⟨-, -, p, ps, -, hp⟩ := step_next h
  · simp [hr] at hr'
  · exact absurd hm' hm
  · exact ⟨rfl, rfl⟩
  · exact ⟨rfl, rfl⟩
  · obtain ⟨i, r, -, -, rfl⟩ | ⟨i, -, -, rfl⟩ | ⟨-, rfl⟩ := hp
    · exact ⟨rfl, rfl⟩
    · exact ⟨rfl, rfl⟩
    · exact ⟨rfl, rfl⟩

/-- Settles O50: the invariant has both builds finished outside INIT, and `step_keeps_tables` is the frame. -/
theorem tablesCompleteAndFrozen : Obligations.TablesCompleteAndFrozen := by
  intro s h hm
  exact ⟨(h.table8_complete hm).read_index, (h.table16_complete hm).read_index,
    fun _ ht hr => step_keeps_tables hm hr ht⟩

end Sys2Proof.Machine
end

section
/-! PROOF. A command that does not fault leaves no trace: it only responds, and its response depends on the packet and
on what the tables read (`10_state.md` R35). -/

namespace Sys2Proof.Machine

/-! What a step that accepts a packet and stays in READY has done -/

/-- A step on a presented packet that ends in READY has answered it, and done nothing else. -/
theorem step_answered {s t : State} {p : Packet} {ps : List Packet} (hr : s.rst = false) (hm : s.mode = .ready)
    (hc : s.cmds = p :: ps) (h : step s = .next t) (ht : t.mode = .ready) :
    ∃ i r, decode p = .legal i ∧ exec i (setCmds ps s) = .next t ∧ t = respond r (setCmds ps s) := by
  rw [step_accept hr hm hc] at h
  obtain ⟨-, ⟨i, hdecode, hexec⟩ | ⟨c, w, -, rfl⟩⟩ := execDecoded_next h
  · obtain ⟨-, ⟨r, hresp⟩ | rfl⟩ := exec_next hexec
    · exact ⟨i, r, hdecode, hexec, hresp⟩
    · simp at ht
  · simp at ht

/-! The response is the same in every state in which the tables read the same -/

/-- A response carries its value. -/
theorem respond_inj {r r' : Word} {s : State} (h : respond r s = respond r' s) : r = r' := by
  simpa using congrArg State.responses h

/-- The sum of a list of entries depends on the table through its reads alone. -/
theorem sumEntries_congr {t t' : Memory} (h : t.read = t'.read) (is : List Nat) (n : Count) :
    sumEntries t is n = sumEntries t' is n := by
  induction is generalizing n with
  | nil => rfl
  | cons i is ih =>
    cases hread : t.read i with
    | none => rw [sumEntries_unwritten hread, sumEntries_unwritten (h ▸ hread)]
    | some e => rw [sumEntries_cons hread, sumEntries_cons (h ▸ hread), ih]

/-- A guarded command answered in one state is answered alike in every READY state: it reads nothing of the state. -/
theorem guardedCount_answer_transfer {strict : Bool} {code : Code} {w r : Word} {fn : Word → Count} {s s' : State}
    (hs' : s'.mode = .ready) (h : guardedCount strict code w fn s = .next (respond r s)) :
    guardedCount strict code w fn s' = .next (respond r s') := by
  obtain ⟨hs, ⟨-, hfault⟩ | ⟨hin, hresp⟩⟩ := guardedCount_next h
  · have hmode := congrArg State.mode hfault
    simp [hs] at hmode
  · rw [guardedCount_ready hs', hin, respond_inj hresp]
    rfl

/-- A sum that is the response in one state is the response in every other. -/
theorem respondSum_answer_transfer {sum : Option Count} {r : Word} {s : State} (s' : State)
    (h : respondSum sum s = .next (respond r s)) : respondSum sum s' = .next (respond r s') := by
  obtain ⟨n, rfl, hresp⟩ := respondSum_next h
  rw [respond_inj hresp]
  rfl

/-- A command answered in one state is answered alike in every READY state whose tables read the same. -/
theorem exec_answer_transfer {i : Instr} {r : Word} {s s' : State} (hs' : s'.mode = .ready)
    (h8 : s.table8.read = s'.table8.read) (h16 : s.table16.read = s'.table16.read)
    (h : exec i s = .next (respond r s)) : exec i s' = .next (respond r s') := by
  have hs : s.mode = .ready := (exec_next h).1
  cases i with
  | popcntIter w => exact guardedCount_answer_transfer hs' h
  | popcntSparse w => exact guardedCount_answer_transfer hs' h
  | popcntDense w => exact guardedCount_answer_transfer hs' h
  | popcntBytetab w =>
    rw [execPopcntBytetab_ready hs] at h
    rw [execPopcntBytetab_ready hs', tab8Fn, ← sumEntries_congr h8]
    exact respondSum_answer_transfer s' h
  | popcntHalftab w =>
    rw [execPopcntHalftab_ready hs] at h
    rw [execPopcntHalftab_ready hs', tab16Fn, ← sumEntries_congr h16]
    exact respondSum_answer_transfer s' h
  | popcntFold w =>
    rw [execPopcntFold_ready hs] at h
    injection h with h
    rw [execPopcntFold_ready hs', respond_inj h]
  | revbits w =>
    rw [execRevbits_ready hs] at h
    injection h with h
    rw [execRevbits_ready hs', respond_inj h]

/-- A packet answered in one serving state is answered alike in every other, since their tables are complete and so
read the same. -/
theorem step_answer_transfer {s s' t : State} {p : Packet} {ps ps' : List Packet} (hs : Serving s) (hs' : Serving s')
    (hc : s.cmds = p :: ps) (hc' : s'.cmds = p :: ps') (h : step s = .next t) (ht : t.mode = .ready) :
    ∃ r, t = respond r (setCmds ps s) ∧ step s' = .next (respond r (setCmds ps' s')) := by
  obtain ⟨hm, hr, hinv⟩ := hs
  obtain ⟨hm', hr', hinv'⟩ := hs'
  have hni : s.mode ≠ .init := by simp [hm]
  have hni' : s'.mode ≠ .init := by simp [hm']
  have h8 := (hinv.table8_complete hni).read_unique (hinv'.table8_complete hni')
  have h16 := (hinv.table16_complete hni).read_unique (hinv'.table16_complete hni')
  obtain ⟨i, r, hdecode, hexec, rfl⟩ := step_answered hr hm hc h ht
  refine ⟨r, rfl, ?_⟩
  rw [step_accept hr' hm' hc', hdecode]
  exact exec_answer_transfer (s := setCmds ps s) (s' := setCmds ps' s') hm' h8 h16 hexec

/-- Settles O55: a step that ends in READY is a response (`step_answered`), and the response does not depend on which
serving state it is given in (`step_answer_transfer`). -/
theorem commandLeavesNoTrace : Obligations.CommandLeavesNoTrace := by
  constructor
  · intro s t p ps hr hm hc h ht
    obtain ⟨i, r, -, -, rfl⟩ := step_answered hr hm hc h ht
    rfl
  · intro s s' t t' p ps ps' hs hs' hc hc' h h' ht
    obtain ⟨r, rfl, hnext⟩ := step_answer_transfer hs hs' hc hc' h ht
    obtain rfl : t' = respond r (setCmds ps' s') := by simpa [h'] using hnext
    exact ⟨hs'.1, r, rfl, rfl⟩

end Sys2Proof.Machine
end

section
/-! PROOF. The lanes of a word: which bits they hold, how the byte lanes make the halfword lanes, and that the order in
which they are summed does not matter (`20_memory.md` R41). -/

namespace Sys2Proof.Machine

/-! The bits of a lane -/

theorem getLsbD_byteLane (w : Word) (j : Nat) {i : Nat} (hi : i < 8) :
    (byteLane w j).getLsbD i = w.getLsbD (8 * j + i) := by
  simp [byteLane, hi]

theorem getLsbD_halfLane (w : Word) (j : Nat) {i : Nat} (hi : i < 16) :
    (halfLane w j).getLsbD i = w.getLsbD (16 * j + i) := by
  simp [halfLane, hi]

/-! Two byte lanes make a halfword lane -/

theorem halfLane_eq_append (w : Word) (j : Nat) : halfLane w j = byteLane w (2 * j + 1) ++ byteLane w (2 * j) := by
  refine BitVec.eq_of_getLsbD_eq fun i hi => ?_
  rw [getLsbD_halfLane w j hi, BitVec.getLsbD_append]
  by_cases hlow : i < 8
  · rw [if_pos hlow, getLsbD_byteLane w _ hlow]
    congr 1
    omega
  · rw [if_neg hlow, getLsbD_byteLane w _ (by omega)]
    congr 1
    omega

theorem popcount_halfLane (w : Word) (j : Nat) :
    popcount (halfLane w j) = popcount (byteLane w (2 * j)) + popcount (byteLane w (2 * j + 1)) := by
  have hlow : 16 * j = 8 * (2 * j) := by omega
  have hhigh : 8 * (2 * j) + 8 = 8 * (2 * j + 1) := by omega
  rw [halfLane, byteLane, byteLane, hlow, ← hhigh]
  exact popcount_slice_add w _ 8 8

/-- In built tables the TABLE16 entry of a halfword lane is the sum of the TABLE8 entries of its two byte lanes. -/
theorem read_halfLane_eq_add {t8 t16 : Memory} (h8 : TableBuilt 8 t8 256) (h16 : TableBuilt 16 t16 65536) (w : Word)
    (j : Nat) : ∃ a b : Entry, t8.read (byteLane w (2 * j)).toNat = some a ∧
      t8.read (byteLane w (2 * j + 1)).toNat = some b ∧ t16.read (halfLane w j).toNat = some (a + b) := by
  refine ⟨_, _, h8.read_index _, h8.read_index _, ?_⟩
  rw [h16.read_index, popcount_halfLane, BitVec.ofNat_add]

/-! The order of the lanes -/

/-- A sum reads its first entry and goes on with it, if there is one. -/
theorem sumEntries_cons_eq_bind (t : Memory) (i : Nat) (is : List Nat) (n : Count) :
    sumEntries t (i :: is) n = (t.read i).bind fun e => sumEntries t is (n + e.setWidth 7) := by
  cases hread : t.read i with
  | none => exact sumEntries_unwritten hread is n
  | some e => exact sumEntries_cons hread is n

/-- Two neighbouring entries are added in either order, and a missing one leaves no sum in either place. -/
theorem sumEntries_swap (t : Memory) (i j : Nat) (is : List Nat) (n : Count) :
    sumEntries t (i :: j :: is) n = sumEntries t (j :: i :: is) n := by
  simp only [sumEntries_cons_eq_bind]
  rw [Option.bind_comm]
  simp only [add_right_comm]

theorem sumEntries_perm (t : Memory) {is js : List Nat} (h : is.Perm js) (n : Count) :
    sumEntries t is n = sumEntries t js n := by
  induction h generalizing n with
  | nil => rfl
  | cons i _ ih => simp only [sumEntries_cons_eq_bind, ih]
  | swap i j is => exact sumEntries_swap t j i is n
  | trans _ _ ih ih' => rw [ih, ih']

/-- Settles O20: the two cuts bit by bit, the append of two byte lanes, the sum of their entries, the order of the lanes
by definition, and the permutation law of the sum. -/
theorem lanesPartitionTheWord : Obligations.LanesPartitionTheWord :=
  ⟨fun w j _ _ hi => getLsbD_byteLane w j hi, fun w j _ _ hi => getLsbD_halfLane w j hi,
    fun w j _ => halfLane_eq_append w j, fun _ _ w j h8 h16 _ => read_halfLane_eq_add h8 h16 w j,
    fun _ => ⟨rfl, rfl⟩, fun t _ _ n h => sumEntries_perm t h n⟩

end Sys2Proof.Machine
end

section
/-! PROOF. The encoding of commands: the packet as an integer, decoding with its inverse, and the opcode map
(`30_encoding.md` R60, R61, R63, R69). -/

namespace Sys2Proof.Machine

/-! The packet as an integer -/

theorem mkPacket_toNat (c : Code) (w : Word) : (mkPacket c w).toNat = c.toNat * 2 ^ 64 + w.toNat := by
  rw [mkPacket, BitVec.toNat_append, ← Nat.shiftLeft_add_eq_or_of_lt w.isLt, Nat.shiftLeft_eq]

/-- Packets with one operand are equal exactly when their codes are. -/
theorem mkPacket_code_inj (c d : Code) (w : Word) : mkPacket c w = mkPacket d w ↔ c = d :=
  BitVec.append_left_inj w

/-! Decoding and its inverse -/

theorem decode_encode (i : Instr) : decode (encode i) = .legal i := by
  cases i <;> simp [decode, encode, Instr.code, Instr.operand]

/-- A packet is a command's packet exactly when its two fields are the command's. -/
theorem eq_encode_iff (p : Packet) (i : Instr) :
    p = encode i ↔ packetCode p = i.code ∧ packetOperand p = i.operand := by
  constructor
  · rintro rfl
    exact ⟨packetCode_mkPacket _ _, packetOperand_mkPacket _ _⟩
  · rintro ⟨hcode, hoperand⟩
    rw [encode, ← hcode, ← hoperand, mkPacket_fields]

/-- A packet decodes to a command exactly when it is that command's packet. -/
theorem decode_eq_legal_iff_eq_encode (p : Packet) (i : Instr) : decode p = .legal i ↔ p = encode i := by
  constructor
  · intro h
    obtain ⟨hcode, hoperand, -⟩ := decode_legal h
    exact (eq_encode_iff p i).2 ⟨hcode, hoperand⟩
  · rintro rfl
    exact decode_encode i

/-- A packet decodes to some command exactly when its code is legal. -/
theorem exists_decode_legal_iff (p : Packet) : (∃ i, decode p = .legal i) ↔ legalCode (packetCode p) = true := by
  constructor
  · rintro ⟨i, hlegal⟩
    obtain ⟨-, -, hcode⟩ := decode_legal hlegal
    exact hcode
  · intro hcode
    cases hdecode : decode p with
    | legal i => exact ⟨i, rfl⟩
    | illegal c w =>
      obtain ⟨-, -, hreserved⟩ := decode_illegal hdecode
      simp [hcode] at hreserved

/-- The seven legal codes by number (`30_encoding.md` R63). -/
theorem legalCode_iff_toNat_mem : ∀ c : Code, legalCode c = true ↔ c.toNat ∈ [0, 1, 2, 3, 4, 5, 8] := by
  decide

/-- Settles O3: a legal code is the code of a command, so its packet is the command's own and `decode_encode` answers; a
reserved code is none of the seven numbers of the case distinction. -/
theorem decodeAndEncodeAreInverse : Obligations.DecodeAndEncodeAreInverse := by
  refine ⟨fun c w => ?_, decode_encode, fun p i h => ((decode_eq_legal_iff_eq_encode p i).1 h).symm,
    fun p q i hp hq => ?_⟩
  · cases hl : legalCode c with
    | true =>
      obtain rfl | rfl | rfl | rfl | rfl | rfl | rfl := (legalCode_iff c).1 hl
      · exact decode_encode (.popcntIter w)
      · exact decode_encode (.popcntSparse w)
      · exact decode_encode (.popcntDense w)
      · exact decode_encode (.popcntBytetab w)
      · exact decode_encode (.popcntHalftab w)
      · exact decode_encode (.popcntFold w)
      · exact decode_encode (.revbits w)
    | false =>
      have hreserved : c.toNat ∉ [0, 1, 2, 3, 4, 5, 8] :=
        mt (legalCode_iff_toNat_mem c).2 (by simp [hl])
      rw [decode_reserved (by rwa [packetCode_mkPacket]), packetCode_mkPacket, packetOperand_mkPacket]
      split
      case h_8 => rfl
      all_goals simp_all
  · rw [decode_eq_legal_iff_eq_encode] at hp hq
    rw [hp, hq]

/-! The opcode map -/

/-- A row's match value is its code above a zero operand. -/
theorem rowMatch_eq_mkPacket (i : Instr) : i.rowMatch = mkPacket i.code 0#64 := by
  cases i <;> simp only [Instr.rowMatch, Instr.code] <;> decide

/-- The mask is all ones in the code and zero in the operand. -/
theorem rowMask_eq_mkPacket : rowMask = mkPacket (BitVec.allOnes 4) 0#64 := by
  decide

/-- The mask keeps the code of a packet and clears its operand. -/
theorem and_rowMask (p : Packet) : p &&& rowMask = mkPacket (packetCode p) 0#64 := by
  calc p &&& rowMask
      = mkPacket (packetCode p) (packetOperand p) &&& mkPacket (BitVec.allOnes 4) 0#64 := by
        rw [mkPacket_fields, rowMask_eq_mkPacket]
    _ = mkPacket (packetCode p &&& BitVec.allOnes 4) (packetOperand p &&& 0#64) := BitVec.and_append
    _ = mkPacket (packetCode p) 0#64 := by rw [BitVec.and_allOnes, BitVec.and_zero]

/-- A packet selects a row exactly when its code is the row's. -/
theorem and_rowMask_eq_rowMatch_iff (p : Packet) (i : Instr) : p &&& rowMask = i.rowMatch ↔ packetCode p = i.code := by
  rw [and_rowMask, rowMatch_eq_mkPacket, mkPacket_code_inj]

/-- Settles O2: selecting a row is having its code (`and_rowMask_eq_rowMatch_iff`), and the code with the operand is
what decoding reads. -/
theorem opcodeMapSelectsRow : Obligations.OpcodeMapSelectsRow := by
  refine ⟨fun _ => rfl, rfl, fun p i => ?_, fun p => ?_⟩
  · rw [and_rowMask_eq_rowMatch_iff, decode_eq_legal_iff_eq_encode, eq_encode_iff]
  · rw [exists_decode_legal_iff, legalCode_iff_toNat_mem]

/-! The sub-fields of the code -/

/-- A count by strategy S has FN 0 and the number of S in STRAT. -/
theorem populationCount_subfields (w : Word) (st : Strategy) :
    codeFn (populationCount w st).code = 0#1 ∧ codeStrat (populationCount w st).code = strategyNumber st ∧
      (populationCount w st).operand = w := by
  cases st <;> simp [populationCount, Instr.code, Instr.operand, codeFn, codeStrat, strategyNumber]

/-- A reversal has FN 1 and STRAT 0. -/
theorem reverseBits_subfields (w : Word) :
    codeFn (reverseBits w).code = 1#1 ∧ codeStrat (reverseBits w).code = 0#3 ∧ (reverseBits w).operand = w := by
  simp [reverseBits, Instr.code, Instr.operand, codeFn, codeStrat]

/-- Settles O1: the append read as a number with its two fields, and the sub-fields of each command's fixed code. -/
theorem packetLayoutAndStrategyNumbers : Obligations.PacketLayoutAndStrategyNumbers :=
  ⟨fun c w => ⟨mkPacket_toNat c w, packetCode_mkPacket c w, packetOperand_mkPacket c w⟩, populationCount_subfields,
    reverseBits_subfields, rfl⟩

end Sys2Proof.Machine
end

section
/-! PROOF. A reserved code in READY raises IllegalCommand (`30_encoding.md` R64, `60_exceptions.md` R161). -/

namespace Sys2Proof.Machine

/-- The nine reserved codes by number (`30_encoding.md` R64). -/
theorem legalCode_eq_false_iff_toNat_mem : ∀ c : Code,
    legalCode c = false ↔ c.toNat ∈ [6, 7, 9, 10, 11, 12, 13, 14, 15] := by
  decide

/-- In READY a packet with a reserved code is accepted, and its fault is all the step does. -/
theorem step_reserved {s : State} {p : Packet} {ps : List Packet} (hr : s.rst = false) (hm : s.mode = .ready)
    (hc : s.cmds = p :: ps) (hl : legalCode (packetCode p) = false) :
    step s = .next (raiseFault .illegalCommand (packetCode p) (packetOperand p) (setCmds ps s)) := by
  rw [step_accept hr hm hc, decode_reserved hl]
  exact whenReady_ready hm _

/-- A legal record of IllegalCommand names a reserved code. -/
theorem RecordLegal.illegalCommand_reserved {s : State} (h : RecordLegal s) (hcause : s.cause = .illegalCommand) :
    legalCode s.fcmd = false := by
  obtain ⟨hnone, -⟩ | ⟨-, -, hl⟩ | ⟨hdomain, -⟩ := recordLegal_cases h
  · simp [hcause] at hnone
  · exact hl
  · simp [hcause] at hdomain

/-- Settles O41: the record clause of the invariant, and `step_reserved`, whose update is exactly the record and the
phase. -/
theorem reservedCodeRaisesIllegalCommand : Obligations.ReservedCodeRaisesIllegalCommand := by
  constructor
  · intro s h hcause
    exact (legalCode_eq_false_iff_toNat_mem _).1 (h.record.illegalCommand_reserved hcause)
  · intro s p ps hr hm hc hcode
    exact ⟨_, step_reserved hr hm hc ((legalCode_eq_false_iff_toNat_mem _).2 hcode), rfl⟩

end Sys2Proof.Machine
end

section
/-! PROOF. The loops of the iterative strategies and the three datapath functions: what each iteration keeps, how often
the loops run, and that the results are the counts (`40_popcount_iterative.md` R82, R84, R86). -/

namespace Sys2Proof.Machine

/-! Any loop `while V != 0` -/

/-- One turn of the trace: the exit test comes first. -/
theorem loopTrace_succ (body : Work → Work) (b : Nat) (k : Work) :
    loopTrace body (b + 1) k = if k.v = 0 then [] else body k :: loopTrace body b (body k) := rfl

/-- What every iteration keeps holds when the loop ends. -/
theorem whileNonzero_keeps {body : Work → Work} {P : Work → Prop} (hbody : ∀ k, k.v ≠ 0 → P k → P (body k)) (b : Nat)
    {k : Work} (hk : P k) : P (whileNonzero body b k) := by
  induction b generalizing k with
  | zero => exact hk
  | succ b ih =>
    rw [whileNonzero_succ]
    split
    · exact hk
    · exact ih (hbody k ‹_› hk)

/-- What every iteration keeps holds after each of them. -/
theorem loopTrace_keeps {body : Work → Work} {P : Work → Prop} (hbody : ∀ k, k.v ≠ 0 → P k → P (body k)) (b : Nat)
    {k : Work} (hk : P k) : ∀ k' ∈ loopTrace body b k, P k' := by
  induction b generalizing k with
  | zero => simp [loopTrace]
  | succ b ih =>
    rw [loopTrace_succ]
    split
    · simp
    · have hnext := hbody k ‹_› hk
      exact List.forall_mem_cons.2 ⟨hnext, ih hnext⟩

/-- If every iteration lowers a measure of `V` by one, the loop runs as often as the measure says and
ends with V = 0. -/
theorem loop_of_measure {body : Work → Work} {m : Word → Nat} (hzero : m 0 = 0)
    (hbody : ∀ k : Work, k.v ≠ 0 → m (body k).v + 1 = m k.v) {b : Nat} {k : Work} (hb : m k.v ≤ b) :
    (loopTrace body b k).length = m k.v ∧ (whileNonzero body b k).v = 0 := by
  induction b generalizing k with
  | zero =>
    have hm : m k.v = 0 := Nat.le_zero.1 hb
    have hv : k.v = 0 := by
      by_contra hv
      have := hbody k hv
      omega
    exact ⟨hm.symm, hv⟩
  | succ b ih =>
    by_cases hv : k.v = 0
    · rw [loopTrace_succ, if_pos hv, whileNonzero_succ, if_pos hv, hv, hzero]
      exact ⟨rfl, rfl⟩
    · have hm := hbody k hv
      obtain ⟨hlength, hend⟩ := ih (k := body k) (by omega)
      rw [loopTrace_succ, if_neg hv, whileNonzero_succ, if_neg hv, List.length_cons, hlength]
      exact ⟨hm, hend⟩

/-! The invariant of both loops -/

/-- `N + popcount(V) = popcount(w)` (`40_popcount_iterative.md` R82). -/
def CountKept (w : Word) (k : Work) : Prop := k.n.toNat + popcount k.v = popcount w

/-- The loops start with nothing counted. -/
theorem countKept_start (w : Word) : CountKept w { v := w, n := 0 } := Nat.zero_add _

theorem CountKept.n_le {w : Word} {k : Work} (h : CountKept w k) : k.n.toNat ≤ 64 :=
  (Nat.le.intro h).trans (popcount_le w)

/-- When nothing is left in `V`, `N` is the count. -/
theorem CountKept.n_eq_popcount {w : Word} {k : Work} (h : CountKept w k) (hv : k.v = 0) : k.n.toNat = popcount w := by
  rw [← h, hv, popcount_zero, Nat.add_zero]

/-- Counting `c` bits that leave `V` keeps the invariant: the 7-bit `N` holds every count of a word. -/
theorem CountKept.of_counted {w : Word} {k k' : Work} {c : Nat} (h : CountKept w k)
    (hn : k'.n = k.n + BitVec.ofNat 7 c) (hv : popcount k'.v + c = popcount k.v) : CountKept w k' := by
  have hw := popcount_le w
  unfold CountKept at h ⊢
  rw [hn, BitVec.toNat_add, BitVec.toNat_ofNat]
  omega

/-! The Iterated loop -/

/-- Shifting right takes the lowest bit off the count. -/
theorem popcount_shift (v : Word) : popcount (v >>> 1) + (v.getLsbD 0).toNat = popcount v := by
  have htop : (v >>> 1).getLsbD 63 = false := by simp
  have hlow : popcount v = (v.getLsbD 0).toNat + popcountUpTo (v >>> 1) 63 := popcountUpTo_shift v 63
  rw [hlow, Nat.add_comm, popcount, popcountUpTo, htop]
  rfl

theorem iterBody_countKept {w : Word} {k : Work} (h : CountKept w k) : CountKept w (iterBody k) :=
  h.of_counted (congrArg (k.n + ·) (lowBit_eq k.v)) (popcount_shift k.v)

/-- Shifting right lowers the index of the highest set bit by one, if there is a set bit. -/
theorem bitlenUpTo_shift {w : Word} {k : Nat} (h : ∃ i ≤ k, w.getLsbD i = true) :
    bitlenUpTo (w >>> 1) k + 1 = bitlenUpTo w (k + 1) := by
  induction k with
  | zero =>
    obtain ⟨i, hi, hbit⟩ := h
    obtain rfl : i = 0 := Nat.le_zero.1 hi
    simp [bitlenUpTo, hbit]
  | succ k ih =>
    have hshift : (w >>> 1).getLsbD k = w.getLsbD (k + 1) := by rw [BitVec.getLsbD_ushiftRight, Nat.add_comm]
    rw [bitlenUpTo, bitlenUpTo, hshift]
    by_cases htop : w.getLsbD (k + 1) = true
    · rw [if_pos htop, if_pos htop]
    · rw [if_neg htop, if_neg htop]
      obtain ⟨i, hi, hbit⟩ := h
      have hik : i ≠ k + 1 := fun hik => htop (hik ▸ hbit)
      exact ih ⟨i, by omega, hbit⟩

/-- A word that is not zero has a set bit. -/
theorem exists_getLsbD_of_ne_zero {v : Word} (hv : v ≠ 0) : ∃ i, v.getLsbD i = true := by
  by_contra! hbits
  exact hv (BitVec.eq_of_getLsbD_eq fun i _ => by simpa using hbits i)

theorem bitlen_shift {v : Word} (hv : v ≠ 0) : bitlen (v >>> 1) + 1 = bitlen v := by
  obtain ⟨i, hbit⟩ := exists_getLsbD_of_ne_zero hv
  have hi : i < 64 := BitVec.lt_of_getLsbD hbit
  have htop : (v >>> 1).getLsbD 63 = false := by simp
  calc bitlen (v >>> 1) + 1 = bitlenUpTo (v >>> 1) 63 + 1 := by rw [bitlen, bitlenUpTo, htop]; rfl
    _ = bitlen v := bitlenUpTo_shift ⟨i, by omega, hbit⟩

theorem bitlenUpTo_le (w : Word) (k : Nat) : bitlenUpTo w k ≤ k := by
  induction k with
  | zero => exact Nat.le_refl 0
  | succ k ih =>
    rw [bitlenUpTo]
    split
    · exact Nat.le_refl _
    · omega

theorem bitlen_zero : bitlen 0 = 0 := by decide

theorem bitlen_le (w : Word) : bitlen w ≤ 64 := bitlenUpTo_le w 64

theorem bitlen_of_getLsbD_63 {w : Word} (h : w.getLsbD 63 = true) : bitlen w = 64 := if_pos h

/-- The Iterated loop runs `bitlen(w)` times and ends with V = 0. -/
theorem iterLoop (w : Word) : (iterTrace w).length = bitlen w ∧ (iterRun w).v = 0 :=
  loop_of_measure (body := iterBody) (k := { v := w, n := 0 }) bitlen_zero (fun _ => bitlen_shift) (bitlen_le w)

theorem iterTrace_length (w : Word) : (iterTrace w).length = bitlen w := (iterLoop w).1

/-- `iter_fn` counts every word (R82). -/
theorem iterFn_toNat (w : Word) : (iterFn w).toNat = popcount w :=
  have hkept : CountKept w (iterRun w) := whileNonzero_keeps (P := CountKept w) (fun _ _ => iterBody_countKept) 64
    (countKept_start w)
  hkept.n_eq_popcount (iterLoop w).2

/-- Settles O13: `CountKept` is the invariant, `bitlen` the measure of the loop. -/
theorem iterLoopCountsEveryWord : Obligations.IterLoopCountsEveryWord := by
  intro w
  refine ⟨fun k hk => ?_, iterTrace_length w, bitlen_le w, (iterLoop w).2, iterFn_toNat w⟩
  have hkept : CountKept w k := loopTrace_keeps (P := CountKept w) (fun _ _ => iterBody_countKept) 64
    (countKept_start w) k hk
  exact ⟨hkept, hkept.n_le⟩

/-! The Sparse loop -/

/-- A set bit survives `V & (V - 1)` exactly when a lower bit is set. -/
theorem getLsbD_and_sub_one (v : Word) (i : Nat) :
    (v &&& (v - 1)).getLsbD i = (v.getLsbD i && decide (∃ j < i, v.getLsbD j = true)) := by
  have hsub : v - 1 = ~~~(-v) := (BitVec.not_neg v).symm
  rw [hsub, BitVec.getLsbD_and, BitVec.getLsbD_not, BitVec.getLsbD_neg]
  cases hbit : v.getLsbD i with
  | false => rfl
  | true => simp [BitVec.lt_of_getLsbD hbit]

/-- `V & (V - 1)` clears the lowest set bit and nothing else. -/
theorem getLsbD_sparseBody {k : Work} {j : Nat} (hj : k.v.getLsbD j = true) (hlow : ∀ i < j, k.v.getLsbD i = false)
    (i : Nat) : (sparseBody k).v.getLsbD i = (k.v.getLsbD i && decide (i ≠ j)) := by
  rw [sparseBody, getLsbD_and_sub_one]
  cases hbit : k.v.getLsbD i with
  | false => rfl
  | true =>
    have hji : j ≤ i := by
      by_contra! hij
      simp [hlow i hij] at hbit
    have hlower : (∃ j' < i, k.v.getLsbD j' = true) ↔ i ≠ j := by
      constructor
      · rintro ⟨j', hlt, hbit'⟩ rfl
        simp [hlow j' hlt] at hbit'
      · intro hne
        exact ⟨j, by omega, hj⟩
    simp [hlower]

/-- Clearing one set bit lowers the count by one. -/
theorem popcount_clear {n : Nat} {v v' : BitVec n} {j : Nat} (hj : v.getLsbD j = true)
    (hclear : ∀ i, v'.getLsbD i = (v.getLsbD i && decide (i ≠ j))) : popcount v' + 1 = popcount v := by
  have hmem : j ∈ Finset.range n := Finset.mem_range.2 (BitVec.lt_of_getLsbD hj)
  rw [popcount_eq_sum, popcount_eq_sum, ← Finset.sum_erase_add _ _ hmem, ← Finset.sum_erase_add _ _ hmem, hclear, hj]
  have hrest : ∀ i ∈ (Finset.range n).erase j, (v'.getLsbD i).toNat = (v.getLsbD i).toNat := by
    intro i hi
    simp [hclear, Finset.ne_of_mem_erase hi]
  rw [Finset.sum_congr rfl hrest]
  simp

/-- A word that is not zero has a lowest set bit, which the iteration clears. -/
theorem popcount_sparseBody {k : Work} (hv : k.v ≠ 0) : popcount (sparseBody k).v + 1 = popcount k.v := by
  have hset := exists_getLsbD_of_ne_zero hv
  have hlow : ∀ i < Nat.find hset, k.v.getLsbD i = false := fun i hi => by simpa using Nat.find_min hset hi
  exact popcount_clear (Nat.find_spec hset) (getLsbD_sparseBody (Nat.find_spec hset) hlow)

theorem sparseBody_countKept {w : Word} {k : Work} (hv : k.v ≠ 0) (h : CountKept w k) : CountKept w (sparseBody k) :=
  h.of_counted rfl (popcount_sparseBody hv)

/-- The Sparse loop runs `popcount(w)` times and ends with V = 0. -/
theorem sparseLoop (w : Word) : (sparseTrace w).length = popcount w ∧ (sparseRun w).v = 0 :=
  loop_of_measure (k := { v := w, n := 0 }) popcount_zero (fun _ => popcount_sparseBody) (popcount_le w)

theorem sparseTrace_length (w : Word) : (sparseTrace w).length = popcount w := (sparseLoop w).1

/-- `sparse_fn` counts every word (R84). -/
theorem sparseFn_toNat (w : Word) : (sparseFn w).toNat = popcount w :=
  have hkept : CountKept w (sparseRun w) := whileNonzero_keeps (fun _ => sparseBody_countKept) 64 (countKept_start w)
  hkept.n_eq_popcount (sparseLoop w).2

/-- Settles O14: `getLsbD_sparseBody` is the iteration, `popcount` the measure of the loop and `CountKept` its
invariant. -/
theorem sparseLoopClearsLowestBit : Obligations.SparseLoopClearsLowestBit :=
  ⟨fun _ _ hj hlow => ⟨getLsbD_sparseBody hj hlow, popcount_clear hj (getLsbD_sparseBody hj hlow)⟩,
    fun w => ⟨sparseTrace_length w, popcount_le w, (sparseLoop w).2, sparseFn_toNat w⟩⟩

/-! The Dense function -/

/-- Each bit is set in a word or in its complement. -/
theorem popcount_not_add {n : Nat} (w : BitVec n) : popcount (~~~w) + popcount w = n := by
  rw [popcount_eq_sum, popcount_eq_sum, ← Finset.sum_add_distrib]
  have hbit : ∀ i ∈ Finset.range n, ((~~~w).getLsbD i).toNat + (w.getLsbD i).toNat = 1 := by
    intro i hi
    rw [BitVec.getLsbD_not, decide_eq_true (Finset.mem_range.1 hi)]
    cases w.getLsbD i <;> rfl
  rw [Finset.sum_congr rfl hbit]
  simp

theorem popcount_not (w : Word) : popcount (~~~w) = 64 - popcount w := Nat.eq_sub_of_add_eq (popcount_not_add w)

/-- `dense_fn` counts every word (R86). -/
theorem denseFn_toNat (w : Word) : (denseFn w).toNat = popcount w := by
  have hsum := popcount_not_add w
  have hcount := sparseFn_toNat (~~~w)
  have hdense : denseFn w = 64#7 - sparseFn (~~~w) := rfl
  rw [hdense, BitVec.toNat_sub, hcount, BitVec.toNat_ofNat]
  omega

/-- The complement of a word of the domain is negative. -/
theorem getLsbD_63_not {w : Word} (h : w.getLsbD 63 = false) : (~~~w).getLsbD 63 = true := by
  rw [BitVec.getLsbD_not, h]
  rfl

/-- Settles O15: the counts of a word and its complement add up to 64, and the loop is the Sparse one. -/
theorem denseCountsByComplement : Obligations.DenseCountsByComplement := fun w =>
  ⟨popcount_not w, (sparseTrace_length _).trans (popcount_not w), denseFn_toNat w, getLsbD_63_not⟩

end Sys2Proof.Machine
end

section
/-! PROOF. The three iterative commands: their effect on every operand, and the loops on the specification's corner
cases and examples (`40_popcount_iterative.md` R83, R85, R87). -/

namespace Sys2Proof.Machine

/-! A guarded command whose datapath function counts every word -/

section
variable {fn : Word → Count} (hfn : ∀ w, (fn w).toNat = popcount w)
include hfn

theorem eq_ofNat_of_counts (w : Word) : fn w = BitVec.ofNat 7 (popcount w) := by
  rw [← hfn w, BitVec.ofNat_toNat, BitVec.setWidth_eq]

theorem zext64_of_counts (w : Word) : zext64 (fn w) = BitVec.ofNat 64 (popcount w) := by
  rw [← hfn w]
  exact (BitVec.ofNat_toNat 64 (fn w)).symm

/-- An operand the guard lets through is answered with its count, and nothing else changes. -/
theorem guardedCount_answers {s : State} (hs : s.mode = .ready) {strict : Bool} (code : Code) {w : Word}
    (hin : outsideDomain strict w = false) :
    guardedCount strict code w fn s = .next { s with responses := s.responses ++ [BitVec.ofNat 64 (popcount w)] } := by
  rw [guardedCount_ready hs, hin, zext64_of_counts hfn]
  rfl

/-- Without STRICT_DOMAIN every operand is answered (U2). -/
theorem guardedCount_lax {s : State} (hs : s.mode = .ready) (code : Code) (w : Word) :
    guardedCount false code w fn s = .next { s with responses := s.responses ++ [BitVec.ofNat 64 (popcount w)] } :=
  guardedCount_answers hfn hs code (outsideDomain_false w)

/-- On this hardware a strictly positive operand is answered. -/
theorem guardedCount_positive {s : State} (hs : s.mode = .ready) (code : Code) {w : Word} (hw : 0 < w.toInt) :
    guardedCount Config.strictDomain code w fn s =
      .next { s with responses := s.responses ++ [BitVec.ofNat 64 (popcount w)] } := by
  have hin : nonPositive w = false := by
    rw [← Bool.not_eq_true, nonPositive_iff_toInt_le_zero]
    omega
  exact guardedCount_answers hfn hs code hin

end

/-- On this hardware any other operand raises DomainViolation, whatever its count. -/
theorem guardedCount_nonpositive {fn : Word → Count} {s : State} (hs : s.mode = .ready) (code : Code) {w : Word}
    (hw : w.toInt ≤ 0) : guardedCount Config.strictDomain code w fn s =
      .next { s with mode := .faulted, cause := .domainViolation, fcmd := code, fword := w } := by
  have hout : outsideDomain Config.strictDomain w = true := (nonPositive_iff_toInt_le_zero w).2 hw
  rw [guardedCount_ready hs, hout]
  rfl

/-! Counts of the corner cases -/

theorem popcount_twoPow {n j : Nat} (hj : j < n) : popcount (BitVec.twoPow n j) = 1 := by
  have hclear : ∀ i, (0 : BitVec n).getLsbD i = ((BitVec.twoPow n j).getLsbD i && decide (i ≠ j)) := by
    intro i
    rw [BitVec.getLsbD_twoPow]
    by_cases hij : j = i <;> simp [hij]
  have hset : (BitVec.twoPow n j).getLsbD j = true := by simp [hj]
  rw [← popcount_clear hset hclear, popcount_zero]

/-- A word with a set bit has a positive count. -/
theorem popcount_pos {v : Word} {i : Nat} (h : v.getLsbD i = true) : 1 ≤ popcount v := by
  have hv : v ≠ 0 := by
    rintro rfl
    simp at h
  calc 1 ≤ popcount (sparseBody { v := v, n := 0 }).v + 1 := Nat.le_add_left 1 _
    _ = popcount v := popcount_sparseBody hv

/-- Settles O16: `iter_fn` counts every word, so the guarded count answers it; the corner cases follow from `bitlen` and
`popcount` of the operand. -/
theorem popcntIterResult : Obligations.PopcntIterResult := by
  refine ⟨fun _ => rfl, fun w s hs hw => guardedCount_positive iterFn_toNat hs _ hw,
    fun w s hs hw => guardedCount_nonpositive hs _ hw, fun w s hs => guardedCount_lax iterFn_toNat hs _ w, ?_,
    by decide⟩
  simp only [iterTrace_length, eq_ofNat_of_counts iterFn_toNat]
  exact ⟨by decide, by decide, by decide, by decide, by decide, by decide, by decide, by decide,
    fun w => bitlen_of_getLsbD_63⟩

/-- Settles O17: `sparse_fn` counts every word, so the guarded count answers it; the corner cases follow from `popcount`
of the operand. -/
theorem popcntSparseResult : Obligations.PopcntSparseResult := by
  refine ⟨fun _ => rfl, fun w s hs hw => guardedCount_positive sparseFn_toNat hs _ hw,
    fun w s hs hw => guardedCount_nonpositive hs _ hw, fun w s hs => guardedCount_lax sparseFn_toNat hs _ w, ?_,
    by decide⟩
  simp only [sparseTrace_length, eq_ofNat_of_counts sparseFn_toNat]
  refine ⟨fun j hj => ?_, by decide, by decide, by decide, by decide, by decide, by decide⟩
  rw [popcount_twoPow hj]
  exact ⟨rfl, rfl⟩

/-- Settles O18: `dense_fn` counts every word, so the guarded count answers it; the corner cases follow from `popcount`
of the operand and of its complement. -/
theorem popcntDenseResult : Obligations.PopcntDenseResult := by
  refine ⟨fun _ => rfl, fun w s hs hw => guardedCount_positive denseFn_toNat hs _ hw,
    fun w s hs hw => guardedCount_nonpositive hs _ hw, fun w s hs => guardedCount_lax denseFn_toNat hs _ w, ?_, ?_⟩
  · simp only [sparseTrace_length, eq_ofNat_of_counts denseFn_toNat]
    exact ⟨by decide, by decide, by decide, by decide, fun w hw => popcount_pos (getLsbD_63_not hw), by decide,
      by decide, by decide, by decide⟩
  · rw [eq_ofNat_of_counts denseFn_toNat]
    exact ⟨by decide, by decide⟩

end Sys2Proof.Machine
end

section
/-! PROOF. The sums of the table commands: the lanes partition the word, so the counts of the lanes add up to the count of
the word, and both commands respond with it (`41_popcount_table.md` R101 to R104). -/

namespace Sys2Proof.Machine

/-! The lanes of a word together -/

/-- The counts of the first `k` lanes of width `m` add up to the count of the bits they cover. -/
theorem sum_popcount_lanes {n : Nat} (w : BitVec n) (m k : Nat) :
    ((List.range k).map fun j => popcount (w.extractLsb' (m * j) m)).sum = popcount (w.extractLsb' 0 (m * k)) := by
  induction k with
  | zero => rfl
  | succ k ih => rw [List.sum_range_succ, ih, Nat.mul_succ, popcount_slice_add, Nat.zero_add]

theorem sum_popcount_byteLanes (w : Word) :
    ((Config.byteLaneOrder.map (byteLane w)).map popcount).sum = popcount w :=
  (sum_popcount_lanes w 8 8).trans (popcount_slice_all w)

theorem sum_popcount_halfLanes (w : Word) :
    ((Config.halfLaneOrder.map (halfLane w)).map popcount).sum = popcount w :=
  (sum_popcount_lanes w 16 4).trans (popcount_slice_all w)

/-! The sum of a complete table's entries -/

/-- A complete table has an entry for every index a lane can hold. -/
theorem TableBuilt.exists_read {m : Nat} {t : Memory} (h : TableBuilt m t (2 ^ m)) {lanes : List (BitVec m)} :
    ∀ i ∈ lanes.map BitVec.toNat, ∃ e, t.read i = some e :=
  List.forall_mem_map.2 fun x _ => ⟨_, h.read_index x⟩

/-- The sum over some lanes is the sum of their counts, taken to the 7 bits of `N`. -/
theorem TableBuilt.sumEntries_lanes {m : Nat} {t : Memory} (h : TableBuilt m t (2 ^ m)) (lanes : List (BitVec m))
    (n : Count) : sumEntries t (lanes.map BitVec.toNat) n = some (n + BitVec.ofNat 7 (lanes.map popcount).sum) := by
  induction lanes generalizing n with
  | nil => simp [sumEntries]
  | cons x lanes ih =>
    have hentry : (BitVec.ofNat 8 (popcount x)).setWidth 7 = BitVec.ofNat 7 (popcount x) :=
      BitVec.setWidth_ofNat_of_le (by decide) _
    rw [List.map_cons, sumEntries_cons (h.read_index x), hentry, ih, List.map_cons, List.sum_cons, BitVec.ofNat_add,
      BitVec.add_assoc]

/-- Eight TABLE8 entries sum to the count of the word (R101). -/
theorem tab8Fn_built {t : Memory} (h : TableBuilt 8 t 256) (w : Word) :
    tab8Fn t w = some (BitVec.ofNat 7 (popcount w)) := by
  rw [← sum_popcount_byteLanes, ← BitVec.zero_add (BitVec.ofNat 7 _)]
  exact h.sumEntries_lanes (Config.byteLaneOrder.map (byteLane w)) 0

/-- Four TABLE16 entries sum to the count of the word (R103). -/
theorem tab16Fn_built {t : Memory} (h : TableBuilt 16 t 65536) (w : Word) :
    tab16Fn t w = some (BitVec.ofNat 7 (popcount w)) := by
  rw [← sum_popcount_halfLanes, ← BitVec.zero_add (BitVec.ofNat 7 _)]
  exact h.sumEntries_lanes (Config.halfLaneOrder.map (halfLane w)) 0

/-- The 7 bits of `N` hold the count of every word (R105). -/
theorem toNat_ofNat_popcount (w : Word) : (BitVec.ofNat 7 (popcount w)).toNat = popcount w := by
  have hle := popcount_le w
  rw [BitVec.toNat_ofNat]
  omega

/-- Settles O21: the entries exist because the table is complete, and their sum is `tab8Fn_built` and
`tab16Fn_built`. -/
theorem tableSumsCountEveryWord : Obligations.TableSumsCountEveryWord :=
  ⟨fun _ w h => ⟨rfl, h.exists_read (lanes := Config.byteLaneOrder.map (byteLane w)), _, tab8Fn_built h w,
      toNat_ofNat_popcount w⟩,
    fun _ w h => ⟨rfl, h.exists_read (lanes := Config.halfLaneOrder.map (halfLane w)), _, tab16Fn_built h w,
      toNat_ofNat_popcount w⟩⟩

/-! The two commands -/

/-- A table command whose sum is the count responds with it, and nothing else changes. -/
theorem respondSum_popcount (w : Word) (s : State) : respondSum (some (BitVec.ofNat 7 (popcount w))) s =
    .next { s with responses := s.responses ++ [BitVec.ofNat 64 (popcount w)] } := by
  rw [← zext64_of_counts (fn := fun w => BitVec.ofNat 7 (popcount w)) toNat_ofNat_popcount w]
  rfl

/-- Settles O22: the response on every operand is `tab8Fn_built`; the entries of the example are the counts of its
lanes. -/
theorem popcntBytetabResult : Obligations.PopcntBytetabResult := by
  obtain ⟨-, hread⟩ := builtTable_built (n := 8) (k := 256) (by decide) (by decide)
  refine ⟨fun _ => rfl, fun w s hs h8 => ?_, by decide, by decide, by decide, by decide, by decide, by decide, ?_,
    by decide⟩
  · rw [execPopcntBytetab_ready hs, tab8Fn_built h8, respondSum_popcount]
  · simp only [hread]
    decide

/-- Settles O23: the response on every operand is `tab16Fn_built`; the entries of the example are written by
`iter_fn`. -/
theorem popcntHalftabResult : Obligations.PopcntHalftabResult := by
  refine ⟨fun _ => rfl, fun w s hs h16 => ?_, by decide, by decide, by decide, by decide, by decide, by decide,
    by decide, by decide⟩
  rw [execPopcntHalftab_ready hs, tab16Fn_built h16, respondSum_popcount]

end Sys2Proof.Machine
end

section
/-! PROOF. The facts of the tables INIT leaves: a table of `n`-bit indices lists the counts of all `n`-bit words, which
grow by a copy and a copy plus one with each bit; so their histogram is a row of Pascal's triangle
(`41_popcount_table.md` R106). -/

namespace Sys2Proof.Machine

/-! The counts of all words of a width -/

/-- The counts of the `n`-bit words, in ascending order of the words. -/
def wordCounts (n : Nat) : List Nat := (List.range (2 ^ n)).map fun x => popcount (BitVec.ofNat n x)

theorem length_wordCounts (n : Nat) : (wordCounts n).length = 2 ^ n := by simp [wordCounts]

/-- One bit more adds that bit to the count. -/
theorem popcount_ofNat_succ (n x : Nat) :
    popcount (BitVec.ofNat (n + 1) x) = popcount (BitVec.ofNat n x) + (x.testBit n).toNat := by
  rw [popcount_eq_sum, popcount_eq_sum, Finset.sum_range_succ]
  congr 1
  · refine Finset.sum_congr rfl fun i hi => ?_
    have hi : i < n := Finset.mem_range.1 hi
    rw [BitVec.getLsbD_ofNat, BitVec.getLsbD_ofNat, decide_eq_true hi, decide_eq_true (Nat.lt_succ_of_lt hi)]
  · rw [BitVec.getLsbD_ofNat, decide_eq_true n.lt_succ_self, Bool.true_and]

/-- The words without the new top bit keep their counts, those with it have one more. -/
theorem wordCounts_succ (n : Nat) : wordCounts (n + 1) = wordCounts n ++ (wordCounts n).map (· + 1) := by
  have hlow : ∀ x ∈ List.range (2 ^ n), popcount (BitVec.ofNat (n + 1) x) = popcount (BitVec.ofNat n x) := by
    intro x hx
    rw [popcount_ofNat_succ, Nat.testBit_lt_two_pow (List.mem_range.1 hx)]
    rfl
  have hhigh : ∀ x ∈ List.range (2 ^ n),
      popcount (BitVec.ofNat (n + 1) (2 ^ n + x)) = popcount (BitVec.ofNat n x) + 1 := by
    intro x hx
    have hmod : BitVec.ofNat n (2 ^ n + x) = BitVec.ofNat n x := BitVec.eq_of_toNat_eq (by simp)
    rw [popcount_ofNat_succ, hmod, Nat.testBit_two_pow_add_eq, Nat.testBit_lt_two_pow (List.mem_range.1 hx)]
    rfl
  rw [wordCounts, wordCounts, Nat.pow_succ, Nat.mul_two, List.range_add, List.map_append, List.map_map, List.map_map]
  exact congrArg₂ _ (List.map_congr_left hlow) (List.map_congr_left hhigh)

/-- As many `n`-bit words have count `j` as there are choices of `j` bits. -/
theorem count_wordCounts (n j : Nat) : (wordCounts n).count j = n.choose j := by
  induction n generalizing j with
  | zero => cases j <;> rfl
  | succ n ih =>
    rw [wordCounts_succ, List.count_append, ih]
    cases j with
    | zero =>
      have hnone : ((wordCounts n).map (· + 1)).count 0 = 0 := List.count_eq_zero.2 (by simp)
      rw [hnone, Nat.choose_zero_right, Nat.choose_zero_right]
    | succ j =>
      rw [List.count_map_of_injective _ _ (add_left_injective 1), ih, Nat.choose_succ_succ', Nat.add_comm]

/-- The counts of the `n`-bit words are `n / 2` on average. -/
theorem sum_wordCounts_mul_two (n : Nat) : (wordCounts n).sum * 2 = n * 2 ^ n := by
  induction n with
  | zero => rfl
  | succ n ih =>
    have hup : ((wordCounts n).map (· + 1)).sum = (wordCounts n).sum + 2 ^ n := by
      simp [List.sum_map_add, length_wordCounts]
    rw [wordCounts_succ, List.sum_append, hup, Nat.pow_succ, Nat.succ_mul]
    linarith

/-- The narrower words come first, with the counts they have at their own width. -/
theorem take_wordCounts {m n : Nat} (h : m ≤ n) : (wordCounts n).take (2 ^ m) = wordCounts m := by
  induction n, h using Nat.le_induction with
  | base => rw [← length_wordCounts, List.take_length]
  | succ n h ih =>
    have hle : 2 ^ m ≤ (wordCounts n).length := by
      rw [length_wordCounts]
      exact Nat.pow_le_pow_right (by decide) h
    rw [wordCounts_succ, List.take_append_of_le_length hle, ih]

/-! The entries of a built table are these counts -/

theorem builtFrom_map_snd (x k : Nat) : (builtFrom x k).map Prod.snd = (List.range' x k).map builtEntry := by
  induction k generalizing x with
  | zero => rfl
  | succ k ih => rw [builtFrom, List.map_cons, ih, List.range'_succ, List.map_cons]

/-- The built table of `n`-bit indices, entry by entry. -/
theorem builtTable_map_toNat {n : Nat} (hn : n ≤ 64) :
    ((builtTable (2 ^ n)).map fun c => c.2.toNat) = wordCounts n := by
  have hentry : ∀ x ∈ List.range (2 ^ n), (builtEntry x).toNat = popcount (BitVec.ofNat n x) := by
    intro x hx
    have hle := popcount_le (BitVec.ofNat n x)
    rw [builtEntry_popcount hn (List.mem_range.1 hx), BitVec.toNat_ofNat]
    omega
  calc ((builtTable (2 ^ n)).map fun c => c.2.toNat)
      = ((builtTable (2 ^ n)).map Prod.snd).map BitVec.toNat := by rw [List.map_map]; rfl
    _ = ((List.range (2 ^ n)).map builtEntry).map BitVec.toNat := by
        rw [builtTable, builtFrom_map_snd, List.range_eq_range']
    _ = wordCounts n := by
        rw [List.map_map]
        exact List.map_congr_left hentry

/-- The histogram of a built table. -/
theorem builtTable_histogram {n : Nat} (hn : n ≤ 64) (j : Nat) :
    ((builtTable (2 ^ n)).filter fun c => c.2.toNat == j).length = n.choose j := by
  rw [← count_wordCounts, ← builtTable_map_toNat hn, List.count, List.countP_map, List.countP_eq_length_filter]
  rfl

/-- The sum of the entries of a built table. -/
theorem builtTable_sum {n : Nat} (hn : n ≤ 64) :
    ((builtTable (2 ^ n)).map fun c => c.2.toNat).sum = n * 2 ^ n / 2 := by
  rw [builtTable_map_toNat hn, ← sum_wordCounts_mul_two, Nat.mul_div_cancel _ Nat.two_pos]

/-- The first sixteen entries of a built table. -/
theorem builtTable_take {n : Nat} (hn : n ≤ 64) (h4 : 4 ≤ n) :
    ((builtTable (2 ^ n)).take 16).map (fun c => c.2.toNat) = [0, 1, 1, 2, 1, 2, 2, 3, 1, 2, 2, 3, 2, 3, 3, 4] := by
  have hfour : wordCounts 4 = [0, 1, 1, 2, 1, 2, 2, 3, 1, 2, 2, 3, 2, 3, 3, 4] := by decide
  rw [List.map_take, builtTable_map_toNat hn, ← hfour]
  exact take_wordCounts h4

/-! Single entries of a complete table -/

theorem TableBuilt.read_zero {n : Nat} {t : Memory} (h : TableBuilt n t (2 ^ n)) : t.read 0 = some 0 := by
  have hzero : popcount 0#n = 0 := popcount_zero
  simpa [hzero] using h.read_index 0#n

theorem TableBuilt.read_last {n : Nat} {t : Memory} (h : TableBuilt n t (2 ^ n)) :
    t.read (2 ^ n - 1) = some (BitVec.ofNat 8 n) := by
  have hall : popcount (BitVec.allOnes n) = n := by
    have hzero : popcount 0#n = 0 := popcount_zero
    simpa [hzero] using popcount_not_add 0#n
  simpa [hall] using h.read_index (BitVec.allOnes n)

theorem TableBuilt.read_twoPow {n : Nat} {t : Memory} (h : TableBuilt n t (2 ^ n)) {j : Nat} (hj : j < n) :
    t.read (2 ^ j) = some 1 := by
  simpa [BitVec.toNat_twoPow_of_lt hj, popcount_twoPow hj] using h.read_index (BitVec.twoPow n j)

/-! TABLE16 from TABLE8 -/

/-- A TABLE16 entry is the sum of the TABLE8 entries of its index's two bytes, with nothing lost in eight bits. -/
theorem read_eq_add_of_bytes {t8 t16 : Memory} (h8 : TableBuilt 8 t8 256) (h16 : TableBuilt 16 t16 65536) {x : Nat}
    (hx : x < 65536) : ∃ a b : Entry, t8.read (x % 256) = some a ∧ t8.read (x / 256) = some b ∧
      (t16.read x).map BitVec.toNat = some (a.toNat + b.toNat) := by
  obtain ⟨w, hw⟩ : ∃ w : Word, w.toNat = x := ⟨BitVec.ofNat 64 x, Nat.mod_eq_of_lt (by omega)⟩
  have hlow : (byteLane w 0).toNat = x % 256 := by
    rw [byteLane, slice_toNat, hw]
    omega
  have hhigh : (byteLane w 1).toNat = x / 256 := by
    rw [byteLane, slice_toNat, hw]
    omega
  have hhalf : (halfLane w 0).toNat = x := by
    rw [halfLane, slice_toNat, hw]
    omega
  have hsum : popcount (halfLane w 0) = popcount (byteLane w 0) + popcount (byteLane w 1) := popcount_halfLane w 0
  have hle := popcount_le (halfLane w 0)
  refine ⟨_, _, hlow ▸ h8.read_index (byteLane w 0), hhigh ▸ h8.read_index (byteLane w 1), ?_⟩
  have hread := h16.read_index (halfLane w 0)
  rw [hhalf] at hread
  rw [hread, Option.map_some, BitVec.toNat_ofNat, BitVec.toNat_ofNat, BitVec.toNat_ofNat]
  congr 1
  omega

/-- Settles O12: the entries at the ends and at powers of two are counts of such words; the histograms, the sums and the
first entries are those of `wordCounts`. -/
theorem builtTableFacts : Obligations.BuiltTableFacts := by
  have h8 : TableBuilt 8 (builtTable 256) 256 := builtTable_built (by decide) (by decide)
  have h16 : TableBuilt 16 (builtTable 65536) 65536 := builtTable_built (by decide) (by decide)
  have hhist8 : ∀ j, ((builtTable 256).filter fun c => c.2.toNat == j).length = Nat.choose 8 j :=
    builtTable_histogram (n := 8) (by decide)
  have hhist16 : ∀ j, ((builtTable 65536).filter fun c => c.2.toNat == j).length = Nat.choose 16 j :=
    builtTable_histogram (n := 16) (by decide)
  refine ⟨h8.read_zero, h8.read_last, fun j hj => h8.read_twoPow hj, ?_, builtTable_sum (n := 8) (by decide),
    h16.read_zero, h16.read_last, ?_, builtTable_sum (n := 16) (by decide), fun x hx => read_eq_add_of_bytes h8 h16 hx,
    builtTable_take (n := 8) (by decide) (by decide), builtTable_take (n := 16) (by decide) (by decide)⟩
  · simp only [hhist8]
    decide
  · simp only [hhist16]
    decide

end Sys2Proof.Machine
end

section
/-! PROOF. The masks: their group rule bit by bit, and what a word keeps under each of the two
(`42_popcount_folding.md` R120). -/

namespace Sys2Proof.Machine

/-! The group rule -/

theorem getLsbD_lowMask : ∀ (k : Fin 6), ∀ i < 64, (lowMask k).getLsbD i = !i.testBit k.val := by decide

theorem highMask_eq_not : ∀ k : Fin 6, highMask k = ~~~lowMask k := by decide

theorem highMask_eq_shiftLeft : ∀ k : Fin 6, highMask k = lowMask k <<< 2 ^ k.val := by decide

theorem lowMask_eq_ushiftRight : ∀ k : Fin 6, lowMask k = highMask k >>> 2 ^ k.val := by decide

theorem popcount_masks : ∀ k : Fin 6, popcount (lowMask k) = 32 ∧ popcount (highMask k) = 32 := by decide

/-- Settles O25: the masks are complements of each other, which gives two of the laws; the values and the other laws are
facts of twelve constants. -/
theorem masksFollowGroupRule : Obligations.MasksFollowGroupRule := by
  refine ⟨rfl, fun k => ⟨getLsbD_lowMask k, highMask_eq_not k, ?_, ?_, highMask_eq_shiftLeft k,
    lowMask_eq_ushiftRight k, popcount_masks k⟩⟩
  · rw [highMask_eq_not, BitVec.and_not_self]
  · rw [highMask_eq_not, BitVec.or_not_self]
    rfl

/-! A word under the masks -/

theorem getLsbD_and_lowMask (v : Word) (k : Fin 6) (i : Nat) :
    (v &&& lowMask k).getLsbD i = (v.getLsbD i && !i.testBit k.val) := by
  rw [BitVec.getLsbD_and]
  by_cases hi : i < 64
  · rw [getLsbD_lowMask k i hi]
  · rw [BitVec.getLsbD_of_ge v i (by omega), Bool.false_and, Bool.false_and]

/-- The odd-numbered groups, shifted down, are the even-numbered groups of the shifted word. -/
theorem and_highMask_ushiftRight (v : Word) (k : Fin 6) :
    (v &&& highMask k) >>> 2 ^ k.val = (v >>> 2 ^ k.val) &&& lowMask k := by
  rw [BitVec.ushiftRight_and_distrib, ← lowMask_eq_ushiftRight]

/-- Shifting down under the mask loses none of the odd-numbered groups. -/
theorem and_highMask_eq_shiftLeft (v : Word) (k : Fin 6) :
    v &&& highMask k = ((v >>> 2 ^ k.val) &&& lowMask k) <<< 2 ^ k.val := by
  rw [highMask_eq_shiftLeft, BitVec.shiftLeft_and_distrib]
  refine BitVec.eq_of_getLsbD_eq fun i hi => ?_
  simp only [BitVec.getLsbD_and, BitVec.getLsbD_shiftLeft, BitVec.getLsbD_ushiftRight]
  by_cases hlow : i < 2 ^ k.val
  · simp [hlow]
  · rw [show 2 ^ k.val + (i - 2 ^ k.val) = i by omega]
    simp [hlow, hi]

/-- The two masks cut a word in two. -/
theorem and_lowMask_add_and_highMask (v : Word) (k : Fin 6) : (v &&& lowMask k) + (v &&& highMask k) = v := by
  have hdisjoint : (v &&& lowMask k) &&& (v &&& highMask k) = 0#64 := by
    calc (v &&& lowMask k) &&& (v &&& highMask k) = (v &&& v) &&& (lowMask k &&& highMask k) := by ac_rfl
      _ = 0#64 := by rw [highMask_eq_not, BitVec.and_not_self]; exact BitVec.and_zero
  rw [BitVec.add_eq_or_of_and_eq_zero _ _ hdisjoint, ← BitVec.and_or_distrib_left, highMask_eq_not,
    BitVec.or_not_self, BitVec.and_allOnes]

end Sys2Proof.Machine
end

section
/-! PROOF. Folding: a round adds the two halves of every lane, so the lanes hold their own counts, and the one lane
of the last round holds the count of the word (`42_popcount_folding.md` R121 to R125). -/

namespace Sys2Proof.Machine

/-! The spellings of a round -/

theorem foldRound_eq (v : Word) (k : Fin 6) :
    foldRound v k = (v &&& lowMask k) + ((v >>> 2 ^ k.val) &&& lowMask k) := rfl

/-- Settles O26: the second spelling masks before it shifts; the third takes the shifted odd bits away from the word, in
which they weigh twice as much. -/
theorem foldRoundSpellingsAgree : Obligations.FoldRoundSpellingsAgree := by
  refine ⟨fun v k => ⟨foldRound_eq v k, ?_⟩, fun v => ?_⟩
  · rw [and_highMask_ushiftRight, foldRound_eq]
  · have hhigh : v &&& highMask 0 = ((v >>> 1) &&& lowMask 0) + ((v >>> 1) &&& lowMask 0) := by
      rw [← BitVec.mul_two]
      exact (and_highMask_eq_shiftLeft v 0).trans (BitVec.shiftLeft_eq_mul_twoPow _ 1)
    have hsplit : v = foldRound v 0 + ((v >>> 1) &&& lowMask 0) := by
      calc v = (v &&& lowMask 0) + (v &&& highMask 0) := (and_lowMask_add_and_highMask v 0).symm
        _ = foldRound v 0 + ((v >>> 1) &&& lowMask 0) := by rw [hhigh, ← BitVec.add_assoc]; rfl
    exact (BitVec.sub_eq_iff_eq_add.2 hsplit).symm

/-! One round, lane by lane -/

/-- Words whose lanes add without a carry add lane by lane. -/
theorem slice_add (x y : Word) {l m : Nat} (hl : m * l + l ≤ 64)
    (hcarry : ∀ j, (x.extractLsb' (j * l) l).toNat + (y.extractLsb' (j * l) l).toNat < 2 ^ l) :
    ((x + y).extractLsb' (m * l) l).toNat = (x.extractLsb' (m * l) l).toNat + (y.extractLsb' (m * l) l).toNat := by
  have hm := hcarry m
  simp only [slice_toNat, Nat.mul_comm _ l, pow_mul] at hcarry hm ⊢
  have hwidth : 2 ^ 64 = (2 ^ l) ^ m * 2 ^ (64 - m * l) := by
    rw [← pow_mul, ← pow_add]
    congr 1
    rw [Nat.mul_comm l m]
    omega
  rw [BitVec.toNat_add, hwidth, Nat.mod_mul_right_div_self, Nat.mod_mod_of_dvd _ (pow_dvd_pow 2 (by omega)),
    digit_add _ (by positivity) m _ _ hcarry, Nat.add_mod, Nat.mod_eq_of_lt hm]

/-- In a lane of two groups, bit k of a position tells the half. -/
theorem testBit_lane_offset (k m : Nat) {i : Nat} (hi : i < 2 ^ (k + 1)) :
    (m * 2 ^ (k + 1) + i).testBit k = !decide (i < 2 ^ k) := by
  rw [Nat.mul_comm, Nat.testBit_two_pow_mul_add m hi, if_pos k.lt_succ_self]
  by_cases hlow : i < 2 ^ k
  · rw [Nat.testBit_lt_two_pow hlow, decide_eq_true hlow]
    rfl
  · rw [Nat.testBit_of_two_pow_le_and_two_pow_add_one_gt (Nat.le_of_not_lt hlow) hi, decide_eq_false hlow]
    rfl

/-- LOW_k keeps the low half of every lane and clears the high half. -/
theorem slice_and_lowMask (v : Word) (k : Fin 6) (m : Nat) :
    ((v &&& lowMask k).extractLsb' (m * 2 ^ (k.val + 1)) (2 ^ (k.val + 1))).toNat =
      (v.extractLsb' (m * 2 ^ (k.val + 1)) (2 ^ k.val)).toNat := by
  have hhalf : 2 ^ k.val ≤ 2 ^ (k.val + 1) := Nat.pow_le_pow_right (by decide) k.val.le_succ
  rw [← BitVec.toNat_setWidth_of_le hhalf]
  congr 1
  refine BitVec.eq_of_getLsbD_eq fun i hi => ?_
  rw [BitVec.getLsbD_extractLsb', getLsbD_and_lowMask, testBit_lane_offset _ _ hi, BitVec.getLsbD_setWidth,
    BitVec.getLsbD_extractLsb', Bool.not_not, Bool.and_comm (v.getLsbD _)]

theorem slice_ushiftRight (v : Word) (s a l : Nat) : (v >>> s).extractLsb' a l = v.extractLsb' (a + s) l := by
  refine BitVec.eq_of_getLsbD_eq fun i hi => ?_
  rw [BitVec.getLsbD_extractLsb', BitVec.getLsbD_extractLsb', BitVec.getLsbD_ushiftRight]
  congr 2
  omega

/-- A round puts into every lane the sum of its two halves, whatever they hold: the sum has one bit more than a half, so
no carry leaves the lane. -/
theorem foldRound_slice (v : Word) (k : Fin 6) {m : Nat} (hm : m < 2 ^ (5 - k.val)) :
    ((foldRound v k).extractLsb' (m * 2 ^ (k.val + 1)) (2 ^ (k.val + 1))).toNat =
      (v.extractLsb' (m * 2 ^ (k.val + 1)) (2 ^ k.val)).toNat +
        (v.extractLsb' (m * 2 ^ (k.val + 1) + 2 ^ k.val) (2 ^ k.val)).toNat := by
  have hroom : 2 ^ 2 ^ k.val + 2 ^ 2 ^ k.val ≤ 2 ^ 2 ^ (k.val + 1) := by
    rw [← two_mul, ← pow_succ']
    exact Nat.pow_le_pow_right (by decide) (Nat.pow_lt_pow_right (by decide) k.val.lt_succ_self)
  have hinside : m * 2 ^ (k.val + 1) + 2 ^ (k.val + 1) ≤ 64 := by
    calc m * 2 ^ (k.val + 1) + 2 ^ (k.val + 1) = (m + 1) * 2 ^ (k.val + 1) := by ring
      _ ≤ 2 ^ (5 - k.val) * 2 ^ (k.val + 1) := Nat.mul_le_mul_right _ hm
      _ = 2 ^ 6 := by rw [← pow_add]; congr 1; omega
  rw [foldRound_eq, slice_add _ _ hinside fun j => ?_]
  · rw [slice_and_lowMask, slice_and_lowMask, slice_ushiftRight]
  · rw [slice_and_lowMask, slice_and_lowMask]
    omega

/-! The rounds in ascending order -/

/-- The lane law of R124: every lane of width `2 ^ n` of `v` holds the count of the bits of `w` at its positions. -/
def LanesHoldCounts (n : Nat) (w v : Word) : Prop :=
  ∀ m < 2 ^ (6 - n), (v.extractLsb' (m * 2 ^ n) (2 ^ n)).toNat = popcount (w.extractLsb' (m * 2 ^ n) (2 ^ n))

/-- Before the first round every bit is its own count. -/
theorem lanesHoldCounts_start (w : Word) : LanesHoldCounts 0 w w := by
  have hbit : ∀ b : BitVec 1, b.toNat = popcount b := by decide
  exact fun m _ => hbit _

/-- A round joins the counters of width `2 ^ k` in pairs. -/
theorem LanesHoldCounts.round {k : Fin 6} {w v : Word} (h : LanesHoldCounts k.val w v) :
    LanesHoldCounts (k.val + 1) w (foldRound v k) := by
  intro m hm
  have hlanes : 2 ^ (6 - k.val) = 2 ^ (5 - k.val) * 2 := by
    rw [← pow_succ]
    congr 1
    omega
  rw [Nat.add_sub_add_right 5 1 k.val] at hm
  have hlow := h (2 * m) (by omega)
  have hhigh := h (2 * m + 1) (by omega)
  have hlowAt : 2 * m * 2 ^ k.val = m * 2 ^ (k.val + 1) := by ring
  have hhighAt : (2 * m + 1) * 2 ^ k.val = m * 2 ^ (k.val + 1) + 2 ^ k.val := by ring
  have hwidth : 2 ^ (k.val + 1) = 2 ^ k.val + 2 ^ k.val := by ring
  rw [hlowAt] at hlow
  rw [hhighAt] at hhigh
  rw [foldRound_slice v k hm, hlow, hhigh, ← popcount_slice_add, ← hwidth]

theorem foldRounds_take_succ (w : Word) (k : Fin 6) : foldRounds w (Config.roundOrder.take (k.val + 1)) =
    foldRound (foldRounds w (Config.roundOrder.take k.val)) k := by
  have htake : Config.roundOrder.take (k.val + 1) = Config.roundOrder.take k.val ++ [k] := by
    revert k
    decide
  rw [htake, foldRounds, List.foldl_concat]
  rfl

/-- The rounds in ascending order keep the lane law, each at its own width. -/
theorem foldRounds_lanesHoldCounts (w : Word) {n : Nat} (hn : n ≤ 6) :
    LanesHoldCounts n w (foldRounds w (Config.roundOrder.take n)) := by
  induction n with
  | zero => exact lanesHoldCounts_start w
  | succ k ih =>
    have hround : foldRounds w (Config.roundOrder.take (k + 1)) = _ := foldRounds_take_succ w ⟨k, hn⟩
    rw [hround]
    exact (ih (Nat.le_of_succ_le hn)).round (k := ⟨k, hn⟩)

theorem byteLane_foldRounds_toNat (w : Word) {j : Nat} (hj : j < 8) :
    (byteLane (foldRounds w [0, 1, 2]) j).toNat = popcount (byteLane w j) := by
  rw [byteLane, byteLane, Nat.mul_comm]
  exact foldRounds_lanesHoldCounts w (n := 3) (by decide) j hj

theorem halfLane_foldRounds_toNat (w : Word) {j : Nat} (hj : j < 4) :
    (halfLane (foldRounds w [0, 1, 2, 3]) j).toNat = popcount (halfLane w j) := by
  rw [halfLane, halfLane, Nat.mul_comm]
  exact foldRounds_lanesHoldCounts w (n := 4) (by decide) j hj

/-- Settles O27: the lane law, and its reading at widths 8 and 16, where the built tables hold the same counts. -/
theorem foldLanesHoldTheirOwnCounts : Obligations.FoldLanesHoldTheirOwnCounts := by
  have h8 : TableBuilt 8 (builtTable 256) 256 := builtTable_built (by decide) (by decide)
  have h16 : TableBuilt 16 (builtTable 65536) 65536 := builtTable_built (by decide) (by decide)
  refine fun w => ⟨fun k m hm => ?_, fun j hj => ?_, fun j hj => ?_⟩
  · refine foldRounds_lanesHoldCounts w (n := k.val + 1) (by omega) m ?_
    rwa [Nat.add_sub_add_right 5 1 k.val]
  · rw [h8.read_index, ← byteLane_foldRounds_toNat w hj, BitVec.ofNat_toNat, BitVec.setWidth_eq]
  · have hle := popcount_le (halfLane w j)
    rw [h16.read_index, Option.map_some, Option.some_inj]
    refine BitVec.eq_of_toNat_eq ?_
    rw [halfLane_foldRounds_toNat w hj, BitVec.toNat_setWidth, BitVec.toNat_ofNat]
    omega

/-! The result -/

/-- After the last round the one lane is the word. -/
theorem foldRounds_toNat (w : Word) : (foldRounds w Config.roundOrder).toNat = popcount w := by
  have hlane : ((foldRounds w Config.roundOrder).extractLsb' 0 64).toNat = popcount (w.extractLsb' 0 64) :=
    foldRounds_lanesHoldCounts w (n := 6) (by decide) 0 (by decide)
  rwa [BitVec.extractLsb'_eq_self, popcount_slice_all] at hlane

theorem foldFn_toNat (w : Word) : (foldFn w).toNat = popcount w := by
  have hle := popcount_le w
  rw [foldFn, slice_toNat, foldRounds_toNat]
  omega

theorem foldRounds_eq_popcount (w : Word) : foldRounds w Config.roundOrder = BitVec.ofNat 64 (popcount w) := by
  rw [← foldRounds_toNat, BitVec.ofNat_toNat, BitVec.setWidth_eq]

/-- Settles O28: the count is at most 64, so bits 63 to 7 of it are 0; the descending order gives
all ones another value. -/
theorem foldEndsWithTheCount : Obligations.FoldEndsWithTheCount := by
  refine ⟨fun w => ⟨foldRounds_eq_popcount w, ?_, rfl, ?_, foldFn_toNat w⟩, 0xFFFFFFFFFFFFFFFF, by decide⟩
  · have hle := popcount_le w
    refine BitVec.eq_of_toNat_eq ?_
    rw [slice_toNat, foldRounds_toNat, Nat.div_eq_of_lt (by omega)]
    rfl
  · rw [zext64_of_counts foldFn_toNat]
    exact (foldRounds_eq_popcount w).symm

/-- Settles O29: `fold_fn` counts every word, so its response is the count; the traces are computed. -/
theorem popcntFoldResult : Obligations.PopcntFoldResult := by
  refine ⟨fun _ => rfl, fun w s hs => ?_, by decide, by decide, by decide, by decide⟩
  rw [execPopcntFold_ready hs, zext64_of_counts foldFn_toNat]
  rfl

end Sys2Proof.Machine
end

section
/-! PROOF. Bit reversal: a swap stage flips one bit of every bit index, so the stages commute and the six together
take bit i to bit 63 - i (`43_bit_reversal.md` R131, R132, R133, R135). -/

namespace Sys2Proof.Machine

/-! One stage -/

/-- The even-numbered groups, moved up, stand where bit k of the index is set: the shift pushes none past the top. -/
theorem getLsbD_and_lowMask_shiftLeft (v : Word) (k : Fin 6) {i : Nat} (hi : i < 64) :
    ((v &&& lowMask k) <<< 2 ^ k.val).getLsbD i = (i.testBit k.val && v.getLsbD (i - 2 ^ k.val)) := by
  rw [BitVec.getLsbD_shiftLeft, getLsbD_and_lowMask]
  by_cases hlow : i < 2 ^ k.val
  · simp [hlow, Nat.testBit_lt_two_pow hlow]
  · have hflip : i.testBit k.val = !(i - 2 ^ k.val).testBit k.val := by
      rw [← Nat.testBit_two_pow_add_eq, Nat.add_sub_cancel' (Nat.le_of_not_lt hlow)]
    simp [hi, hlow, hflip, Bool.and_comm]

/-- Flipping bit k of an index moves it by one group: down where the bit is set, up where it is clear. -/
theorem xor_two_pow_eq : ∀ (k : Fin 6), ∀ i < 64,
    i ^^^ 2 ^ k.val = if i.testBit k.val then i - 2 ^ k.val else 2 ^ k.val + i := by decide

theorem two_pow_lt_word (k : Fin 6) : 2 ^ k.val < 2 ^ 6 := Nat.pow_lt_pow_right (by decide) k.isLt

/-- A stage flips bit k of the index (R135); past the word both sides are 0. -/
theorem getLsbD_swapStage (v : Word) (k : Fin 6) (i : Nat) :
    (swapStage v k).getLsbD i = v.getLsbD (i ^^^ 2 ^ k.val) := by
  by_cases hi : i < 64
  · rw [swapStage, groupWidth, and_highMask_ushiftRight, BitVec.getLsbD_or, getLsbD_and_lowMask,
      BitVec.getLsbD_ushiftRight, getLsbD_and_lowMask_shiftLeft v k hi, xor_two_pow_eq k i hi]
    cases i.testBit k.val <;> simp
  · have hxor : 64 ≤ i ^^^ 2 ^ k.val := by
      by_contra hlt
      exact hi (by simpa using Nat.xor_lt_two_pow (n := 6) (Nat.lt_of_not_le hlt) (two_pow_lt_word k))
    rw [BitVec.getLsbD_of_ge _ _ (Nat.le_of_not_lt hi), BitVec.getLsbD_of_ge _ _ hxor]

/-- A stage moves the bits about and so keeps their sum. -/
theorem popcount_swapStage (v : Word) (k : Fin 6) : popcount (swapStage v k) = popcount v := by
  have hrange : ∀ i ∈ Finset.range 64, i ^^^ 2 ^ k.val ∈ Finset.range 64 := fun i hi =>
    Finset.mem_range.2 (Nat.xor_lt_two_pow (n := 6) (Finset.mem_range.1 hi) (two_pow_lt_word k))
  rw [popcount_eq_sum, popcount_eq_sum]
  exact Finset.sum_nbij' (· ^^^ 2 ^ k.val) (· ^^^ 2 ^ k.val) hrange hrange
    (fun i _ => Nat.xor_xor_cancel_right i _) (fun i _ => Nat.xor_xor_cancel_right i _)
    (fun i _ => congrArg Bool.toNat (getLsbD_swapStage v k i))

/-- Flipping a bit of the index twice leaves the index as it was. -/
theorem swapStage_swapStage (v : Word) (k : Fin 6) : swapStage (swapStage v k) k = v := by
  refine BitVec.eq_of_getLsbD_eq fun i _ => ?_
  rw [getLsbD_swapStage, getLsbD_swapStage, Nat.xor_xor_cancel_right]

/-- Settles O30: the bit law, from which the other two follow. -/
theorem swapStageFlipsOneIndexBit : Obligations.SwapStageFlipsOneIndexBit := fun k v =>
  ⟨fun i _ => getLsbD_swapStage v k i, popcount_swapStage v k, swapStage_swapStage v k⟩

/-! Stages in any order -/

/-- The order in which two bits of the index are flipped does not matter. -/
theorem swapStage_comm (v : Word) (j k : Fin 6) : swapStage (swapStage v k) j = swapStage (swapStage v j) k := by
  refine BitVec.eq_of_getLsbD_eq fun i _ => ?_
  simp only [getLsbD_swapStage]
  rw [Nat.xor_right_comm]

theorem swapStages_perm {ks js : List (Fin 6)} (h : ks.Perm js) (w : Word) : swapStages w ks = swapStages w js :=
  h.foldl_eq' (fun j _ k _ v => swapStage_comm v k j) w

/-- Settles O31: stages that commute in pairs may be run in any order. -/
theorem swapStagesCommute : Obligations.SwapStagesCommute :=
  ⟨fun j k v => swapStage_comm v j k, fun _ w h => swapStages_perm h w⟩

/-! The network -/

/-- The index from which the listed stages together fetch bit `i`. -/
def flipIndexBits (ks : List (Fin 6)) (i : Nat) : Nat := ks.foldr (fun k j => j ^^^ 2 ^ k.val) i

theorem getLsbD_swapStages (w : Word) (ks : List (Fin 6)) (i : Nat) :
    (swapStages w ks).getLsbD i = w.getLsbD (flipIndexBits ks i) := by
  induction ks generalizing w with
  | nil => rfl
  | cons k ks ih => exact (ih (swapStage w k)).trans (getLsbD_swapStage w k _)

/-- All six bits of an index flipped: the mirrored position. -/
theorem flipIndexBits_stageOrder : ∀ i < 64, flipIndexBits Config.stageOrder i = 63 - i := by decide

theorem getLsbD_revFn (w : Word) {i : Nat} (hi : i < 64) : (revFn w).getLsbD i = w.getLsbD (63 - i) := by
  rw [revFn, getLsbD_swapStages, flipIndexBits_stageOrder i hi]

theorem revFn_eq_bitrev (w : Word) : revFn w = bitrev w := by
  refine BitVec.eq_of_getLsbD_eq fun i hi => ?_
  rw [getLsbD_revFn w hi, bitrev, BitVec.getLsbD_ofFnLE, dif_pos hi]

/-- Settles O32: the six stages are the definition, and the bit law gives the mirrored position. -/
theorem swapNetworkReversesTheWord : Obligations.SwapNetworkReversesTheWord := fun w =>
  ⟨rfl, fun _ hi => getLsbD_revFn w hi, revFn_eq_bitrev w⟩

/-! The command -/

/-- The mirror image of the mirrored position is the position. -/
theorem revFn_revFn (w : Word) : revFn (revFn w) = w := by
  refine BitVec.eq_of_getLsbD_eq fun i hi => ?_
  rw [getLsbD_revFn _ hi, getLsbD_revFn w (by omega), Nat.sub_sub_self (by omega)]

/-- Settles O33: the network is `bitrev`, so its response is the reversed word; the corner cases and the traces are
computed. -/
theorem revbitsResult : Obligations.RevbitsResult := by
  refine ⟨fun _ => rfl, fun w s hs => ?_, by decide, by decide, by decide, by decide, by decide, revFn_revFn,
    by decide⟩
  rw [execRevbits_ready hs, revFn_eq_bitrev]
  rfl

end Sys2Proof.Machine
end

section
/-! PROOF. The engine against its reference: in a serving state every packet gets the reply that `popcount`, `bitrev`,
the guard and the opcode map give it (`44_properties.md` R149). -/

namespace Sys2Proof.Machine

/-! The replies of the guarded commands -/

/-- The reference turns an operand away exactly when the engine's guard does. -/
theorem guardedReply_eq_ite (strict : Bool) (w : Word) :
    guardedReply strict w = if outsideDomain strict w then .fault .domainViolation else countReply w := by
  simp only [guardedReply, outsideDomain_iff]

/-- On this hardware the strictly positive operands are answered, all others turned away. -/
theorem guardedReply_strictDomain (w : Word) :
    guardedReply Config.strictDomain w = if 0 < w.toInt then countReply w else .fault .domainViolation := by
  have hout : outsideDomain Config.strictDomain w = true ↔ w.toInt ≤ 0 := nonPositive_iff_toInt_le_zero w
  rw [guardedReply_eq_ite]
  by_cases hw : 0 < w.toInt
  · rw [if_pos hw, if_neg (by rw [hout]; omega)]
  · rw [if_neg hw, if_pos (hout.2 (by omega))]

/-! The effect of a reply -/

theorem afterReply_countReply (p : Packet) (w : Word) (s : State) :
    afterReply p (countReply w) s = respond (BitVec.ofNat 64 (popcount w)) s := rfl

/-- A reply has no part in the packets on the port. -/
theorem afterReply_setCmds (p : Packet) (r : Reply) (ps : List Packet) (s : State) :
    afterReply p r (setCmds ps s) = setCmds ps (afterReply p r s) := by
  cases r with
  | response v => exact respond_setCmds v ps s
  | fault f => exact raiseFault_setCmds f _ _ ps s

@[simp] theorem afterReply_cmds (p : Packet) (r : Reply) (s : State) : (afterReply p r s).cmds = s.cmds := by
  cases r <;> rfl

/-! The tables of a serving state -/

theorem Serving.table8_complete {s : State} (h : Serving s) : TableBuilt 8 s.table8 256 := by
  obtain ⟨hm, -, hinv⟩ := h
  exact hinv.table8_complete (by simp [hm])

theorem Serving.table16_complete {s : State} (h : Serving s) : TableBuilt 16 s.table16 65536 := by
  obtain ⟨hm, -, hinv⟩ := h
  exact hinv.table16_complete (by simp [hm])

/-! Every command, then every packet -/

/-- A guarded command whose datapath function counts every word gives the reference's reply, under either value of
STRICT_DOMAIN. -/
theorem guardedCount_reply {fn : Word → Count} (hfn : ∀ w, (fn w).toNat = popcount w) {s : State}
    (hs : s.mode = .ready) (strict : Bool) (code : Code) (w : Word) :
    guardedCount strict code w fn s = .next (afterReply (mkPacket code w) (guardedReply strict w) s) := by
  rw [guardedReply_eq_ite]
  cases hout : outsideDomain strict w with
  | true => rw [guardedCount_ready hs, hout, if_pos rfl, if_pos rfl, afterReply, packetCode_mkPacket,
      packetOperand_mkPacket]
  | false => exact guardedCount_answers hfn hs code hout

/-- Every command gives the reference's reply; the table commands need the complete tables of R28. -/
theorem exec_reply {s : State} (hs : Serving s) (i : Instr) :
    exec i s = .next (afterReply (encode i) (instrReply Config.strictDomain i) s) := by
  have hm : s.mode = .ready := hs.1
  cases i with
  | popcntIter w => exact guardedCount_reply iterFn_toNat hm _ _ w
  | popcntSparse w => exact guardedCount_reply sparseFn_toNat hm _ _ w
  | popcntDense w => exact guardedCount_reply denseFn_toNat hm _ _ w
  | popcntBytetab w =>
    rw [execPopcntBytetab_ready hm, tab8Fn_built hs.table8_complete]
    exact respondSum_popcount w s
  | popcntHalftab w =>
    rw [execPopcntHalftab_ready hm, tab16Fn_built hs.table16_complete]
    exact respondSum_popcount w s
  | popcntFold w =>
    rw [execPopcntFold_ready hm, zext64_of_counts foldFn_toNat]
    rfl
  | revbits w =>
    rw [execRevbits_ready hm, revFn_eq_bitrev]
    rfl

/-- Every decoded packet gives the reference's reply: a legal one is its command's, a reserved one is recorded with its
own fields. -/
theorem execDecoded_reply {s : State} (hs : Serving s) (p : Packet) :
    execDecoded (decode p) s = .next (afterReply p (packetReply Config.strictDomain p) s) := by
  cases hdecode : decode p with
  | legal i =>
    obtain rfl := (decode_eq_legal_iff_eq_encode p i).1 hdecode
    rw [packetReply, hdecode]
    exact exec_reply hs i
  | illegal c w =>
    obtain ⟨rfl, rfl, -⟩ := decode_illegal hdecode
    rw [packetReply, hdecode]
    exact whenReady_ready hs.1 _

/-- In a serving state the packet on the port is accepted and gets the reference's reply. -/
theorem step_reply {s : State} {p : Packet} {ps : List Packet} (hs : Serving s) (hc : s.cmds = p :: ps) :
    step s = .next (setCmds ps (afterReply p (packetReply Config.strictDomain p) s)) := by
  obtain ⟨hm, hr, hinv⟩ := hs
  rw [step_accept hr hm hc, execDecoded_reply (setCmds_serving ⟨hm, hr, hinv⟩ ps), afterReply_setCmds]

/-- Settles O56: `step_reply`, with the packets put back on the port. -/
theorem engineMeetsItsReference : Obligations.EngineMeetsItsReference := by
  intro s p ps hs hc
  refine ⟨_, step_reply hs hc, ?_⟩
  calc { setCmds ps (afterReply p (packetReply Config.strictDomain p) s) with cmds := s.cmds }
      = setCmds s.cmds (afterReply p (packetReply Config.strictDomain p) s) := rfl
    _ = afterReply p (packetReply Config.strictDomain p) s := by
        rw [← afterReply_cmds p (packetReply Config.strictDomain p) s]
        rfl

end Sys2Proof.Machine
end

section
/-! PROOF. Reversal across commands: two reversals cancel, and the fixed points are the words whose upper half mirrors
the lower one (`44_properties.md` R143 to R146). -/

namespace Sys2Proof.Machine

/-- Settles O34: the second command reverses the response of the first. -/
theorem reversalIsAnInvolution : Obligations.ReversalIsAnInvolution := by
  refine ⟨revFn_revFn, fun w s hs => ?_⟩
  refine ⟨revFn w, respond (revFn w) s, respond w (respond (revFn w) s), execRevbits_ready hs w, rfl, ?_, ?_⟩
  · rw [execRevbits_ready (s := respond (revFn w) s) hs, revFn_revFn]
  · simp

/-! Fixed points -/

theorem revFn_eq_self_iff (w : Word) : revFn w = w ↔ ∀ i < 64, w.getLsbD i = w.getLsbD (63 - i) := by
  constructor
  · intro h i hi
    rw [← getLsbD_revFn w hi, h]
  · intro h
    exact BitVec.eq_of_getLsbD_eq fun i hi => (getLsbD_revFn w hi).trans (h i hi).symm

/-- The palindromic word with a given lower half. -/
def palindrome (x : BitVec 32) : Word := x.setWidth 64 ||| revFn (x.setWidth 64)

theorem getLsbD_palindrome (x : BitVec 32) {i : Nat} (hi : i < 64) :
    (palindrome x).getLsbD i = (x.getLsbD i || x.getLsbD (63 - i)) := by
  have hmirror : 63 - i < 64 := by omega
  rw [palindrome, BitVec.getLsbD_or, getLsbD_revFn _ hi, BitVec.getLsbD_setWidth, BitVec.getLsbD_setWidth,
    decide_eq_true hi, decide_eq_true hmirror, Bool.true_and, Bool.true_and]

theorem revFn_palindrome (x : BitVec 32) : revFn (palindrome x) = palindrome x := by
  refine (revFn_eq_self_iff _).2 fun i hi => ?_
  rw [getLsbD_palindrome x hi, getLsbD_palindrome x (by omega), Nat.sub_sub_self (by omega), Bool.or_comm]

theorem setWidth_palindrome (x : BitVec 32) : (palindrome x).setWidth 32 = x := by
  refine BitVec.eq_of_getLsbD_eq fun i hi => ?_
  rw [BitVec.getLsbD_setWidth, decide_eq_true hi, Bool.true_and, getLsbD_palindrome x (by omega),
    BitVec.getLsbD_of_ge x (63 - i) (by omega), Bool.or_false]

/-- A fixed point is given by its lower half: of two mirrored positions one lies there. -/
theorem palindrome_setWidth {w : Word} (h : revFn w = w) : palindrome (w.setWidth 32) = w := by
  refine BitVec.eq_of_getLsbD_eq fun i hi => ?_
  have hmirror := (revFn_eq_self_iff w).1 h i hi
  have hhalf : i < 32 ∨ 63 - i < 32 := by omega
  rw [getLsbD_palindrome _ hi, BitVec.getLsbD_setWidth, BitVec.getLsbD_setWidth, ← hmirror, ← Bool.and_or_distrib_right,
    ← Bool.decide_or, decide_eq_true hhalf, Bool.true_and]

/-- The fixed points of the reversal and their lower halves. -/
def fixedPointEquiv : { w : Word // revFn w = w } ≃ BitVec 32 where
  toFun w := w.val.setWidth 32
  invFun x := ⟨palindrome x, revFn_palindrome x⟩
  left_inv w := Subtype.ext (palindrome_setWidth w.property)
  right_inv := setWidth_palindrome

/-! Single bits -/

theorem revFn_twoPow {i : Nat} (hi : i < 64) : revFn (BitVec.twoPow 64 i) = BitVec.twoPow 64 (63 - i) := by
  refine BitVec.eq_of_getLsbD_eq fun j hj => ?_
  rw [getLsbD_revFn _ hj, BitVec.getLsbD_twoPow, BitVec.getLsbD_twoPow]
  have hmirror : i = 63 - j ↔ 63 - i = j := by omega
  have hlow : 63 - i < 64 := by omega
  simp [hi, hmirror, hlow]

/-- Settles O35: the fixed points correspond to the 32-bit words, and a single bit is a power of two; the values at
fixed words are computed. -/
theorem reversalFixedPointsAndSingleBits : Obligations.ReversalFixedPointsAndSingleBits :=
  ⟨by decide, by decide, revFn_eq_self_iff, Nat.card_eq_of_equiv_fin (fixedPointEquiv.trans BitVec.equivFin.toEquiv),
    fun _ hi => revFn_twoPow hi, by decide, by decide, by decide, fun w _ hs => execRevbits_ready hs w⟩

/-! The count -/

theorem popcount_swapStages (w : Word) (ks : List (Fin 6)) : popcount (swapStages w ks) = popcount w := by
  induction ks generalizing w with
  | nil => rfl
  | cons k ks ih => exact (ih (swapStage w k)).trans (popcount_swapStage w k)

theorem popcount_revFn (w : Word) : popcount (revFn w) = popcount w := popcount_swapStages w Config.stageOrder

end Sys2Proof.Machine
end

section
/-! PROOF. The count commands together: which of them accept an operand, that all that accept it answer its count, and
what the counts can be (`44_properties.md` R140, R142, R147, R148). -/

namespace Sys2Proof.Machine

/-! The guarded and the unguarded count commands -/

/-- The count commands that test their operand (`40_popcount_iterative.md` R81). -/
def guardedCounts (w : Word) : List Instr := [.popcntIter w, .popcntSparse w, .popcntDense w]

/-- The count commands that accept every operand. -/
def unguardedCounts (w : Word) : List Instr := [.popcntBytetab w, .popcntHalftab w, .popcntFold w]

/-- The replies of the three guarded count commands. -/
theorem instrReply_of_guarded {w : Word} {i : Instr} (hi : i ∈ guardedCounts w) (strict : Bool) :
    instrReply strict i = guardedReply strict w := by
  simp only [guardedCounts, List.mem_cons, List.not_mem_nil, or_false] at hi
  rcases hi with rfl | rfl | rfl <;> rfl

/-- The three unguarded count commands: their replies, and that their codes come after the guarded ones. -/
theorem instrReply_of_unguarded {w : Word} {i : Instr} (hi : i ∈ unguardedCounts w) (strict : Bool) :
    instrReply strict i = countReply w ∧ 3 ≤ i.code.toNat := by
  simp only [unguardedCounts, List.mem_cons, List.not_mem_nil, or_false] at hi
  rcases hi with rfl | rfl | rfl <;> exact ⟨rfl, by simp [Instr.code]⟩

section
variable {s : State} {w : Word} {i : Instr}

/-- An unguarded count command answers every operand with its count. -/
theorem exec_unguarded (hs : Serving s) (hi : i ∈ unguardedCounts w) :
    exec i s = .next (respond (BitVec.ofNat 64 (popcount w)) s) := by
  obtain ⟨hreply, -⟩ := instrReply_of_unguarded hi Config.strictDomain
  rw [exec_reply hs, hreply, afterReply_countReply]

/-- A guarded count command answers a strictly positive operand with its count. -/
theorem exec_guarded_positive (hs : Serving s) (hi : i ∈ guardedCounts w) (hw : 0 < w.toInt) :
    exec i s = .next (respond (BitVec.ofNat 64 (popcount w)) s) := by
  rw [exec_reply hs, instrReply_of_guarded hi, guardedReply_strictDomain, if_pos hw, afterReply_countReply]

/-- A guarded count command faults on any other operand, in every READY state. -/
theorem exec_guarded_nonpositive (hs : s.mode = .ready) (hi : i ∈ guardedCounts w) (hw : w.toInt ≤ 0) :
    ∃ t, exec i s = .next t ∧ t.mode = .faulted := by
  simp only [guardedCounts, List.mem_cons, List.not_mem_nil, or_false] at hi
  rcases hi with rfl | rfl | rfl <;> exact ⟨_, guardedCount_nonpositive hs _ hw, rfl⟩

/-- Every count command answers a strictly positive operand with its count. -/
theorem exec_count_positive (hs : Serving s) (hi : i ∈ guardedCounts w ++ unguardedCounts w) (hw : 0 < w.toInt) :
    exec i s = .next (respond (BitVec.ofNat 64 (popcount w)) s) := by
  rcases List.mem_append.1 hi with hg | hu
  · exact exec_guarded_positive hs hg hw
  · exact exec_unguarded hs hu

/-- A count command that does not fault answers with the count; a guarded one does so on strictly positive operands
alone. -/
theorem exec_count_answered {t : State} (hs : Serving s) (hi : i ∈ guardedCounts w ++ unguardedCounts w)
    (h : exec i s = .next t) (ht : t.mode = .ready) :
    t = respond (BitVec.ofNat 64 (popcount w)) s ∧ (i.code.toNat < 3 → 0 < w.toInt) := by
  rcases List.mem_append.1 hi with hg | hu
  · have hw : 0 < w.toInt := by
      by_contra hw
      obtain ⟨u, hu, hfault⟩ := exec_guarded_nonpositive hs.1 hg (Int.not_lt.1 hw)
      obtain rfl : t = u := by simpa [h] using hu
      simp [ht] at hfault
    exact ⟨by simpa [h] using exec_guarded_positive hs hg hw, fun _ => hw⟩
  · obtain ⟨-, hcode⟩ := instrReply_of_unguarded hu Config.strictDomain
    exact ⟨by simpa [h] using exec_unguarded hs hu, fun hlt => absurd hlt (Nat.not_lt.2 hcode)⟩

end

/-- Without STRICT_DOMAIN the three guarded count commands answer every operand with its count. -/
theorem iterative_lax {e : Bool → Word → State → Host.Outcome State Fault Refusal}
    (he : e ∈ [execPopcntIterWith, execPopcntSparseWith, execPopcntDenseWith]) {s : State} (hs : s.mode = .ready)
    (w : Word) : e false w s = .next (respond (BitVec.ofNat 64 (popcount w)) s) := by
  simp only [List.mem_cons, List.not_mem_nil, or_false] at he
  rcases he with rfl | rfl | rfl
  · exact guardedCount_lax iterFn_toNat hs _ w
  · exact guardedCount_lax sparseFn_toNat hs _ w
  · exact guardedCount_lax denseFn_toNat hs _ w

/-- Settles O37: the guarded commands answer the strictly positive operands, the others every operand
(`exec_count_answered`), and each datapath function counts every word. -/
theorem countCommandsAgreeOnSharedDomain : Obligations.CountCommandsAgreeOnSharedDomain := by
  intro s w hs
  refine ⟨fun i hi => ⟨fun t h ht => (exec_count_answered hs hi h ht).1, exec_count_positive hs hi⟩,
    fun i hi hw => exec_guarded_nonpositive hs.1 hi hw, fun i hi => exec_unguarded hs hi,
    fun e he => iterative_lax he hs.1 w, ?_, fun n hn => ?_⟩
  · simp [iterFn_toNat, sparseFn_toNat, denseFn_toNat, foldFn_toNat]
  · obtain rfl : n = some (BitVec.ofNat 7 (popcount w)) := by
      simpa [tab8Fn_built hs.table8_complete, tab16Fn_built hs.table16_complete] using hn
    rw [Option.map_some, toNat_ofNat_popcount]

/-- Settles O39: both responses are the one count; bit 0 of an odd word is bit 63 of its reversal, which is therefore
negative. -/
theorem reversalKeepsTheCount : Obligations.ReversalKeepsTheCount := by
  refine ⟨popcount_revFn, fun w hodd => ?_, fun w s hs f hf t u ht hu hmt hmu => ?_⟩
  · have hneg : (revFn w).getLsbD 63 = true := (getLsbD_revFn w (by decide)).trans hodd
    have hle : (revFn w).toInt ≤ 0 := le_of_lt ((getLsbD_63_iff_toInt_neg _).1 hneg)
    exact ⟨hneg, fun s hs f hf =>
      exec_guarded_nonpositive hs (List.mem_map_of_mem (f := fun f => f (revFn w)) hf) hle⟩
  · obtain ⟨rfl, -⟩ := exec_count_answered hs (List.mem_map_of_mem (f := fun f => f w) hf) ht hmt
    obtain ⟨rfl, -⟩ := exec_count_answered hs (List.mem_map_of_mem (f := fun f => f (revFn w)) hf) hu hmu
    rw [popcount_revFn]

/-! The tables seen through their commands -/

/-- A complete table reads what the initialiser writes. -/
theorem TableBuilt.read_eq_builtEntry {n : Nat} (hn : n ≤ 64) {t : Memory} (h : TableBuilt n t (2 ^ n)) {x : Nat}
    (hx : x < 2 ^ n) : t.read x = some (builtEntry x) := by
  obtain ⟨-, hread⟩ := h
  rw [hread, if_pos hx, builtEntry_popcount hn hx]

/-- A zero-extended value fills the lowest lane of its width and leaves the others zero. -/
theorem slice_zeroExtended {m : Nat} (hm : m ≤ 64) (x : BitVec m) (j : Nat) :
    ((x.setWidth 64).extractLsb' (m * j) m).toNat = if j = 0 then x.toNat else 0 := by
  rw [slice_toNat, BitVec.toNat_setWidth_of_le hm]
  cases j with
  | zero => simp
  | succ j =>
    have hlt : x.toNat < 2 ^ (m * (j + 1)) :=
      Nat.lt_of_lt_of_le x.isLt (Nat.pow_le_pow_right (by decide) (Nat.le_mul_of_pos_right m j.succ_pos))
    simp [Nat.div_eq_of_lt hlt]

theorem byteIndices_zeroExtended (b : BitVec 8) : byteIndices (b.setWidth 64) = [b.toNat, 0, 0, 0, 0, 0, 0, 0] := by
  have hlane : ∀ j, (byteLane (b.setWidth 64) j).toNat = if j = 0 then b.toNat else 0 :=
    slice_zeroExtended (by decide) b
  simp [byteIndices, hlane]

theorem halfIndices_zeroExtended (h : BitVec 16) : halfIndices (h.setWidth 64) = [h.toNat, 0, 0, 0] := by
  have hlane : ∀ j, (halfLane (h.setWidth 64) j).toNat = if j = 0 then h.toNat else 0 :=
    slice_zeroExtended (by decide) h
  simp [halfIndices, hlane]

theorem popcount_zeroExtended {m n : Nat} (hm : m ≤ n) (x : BitVec m) : popcount (x.setWidth n) = popcount x := by
  rw [popcount_eq_sum, popcount_eq_sum]
  refine (Finset.sum_subset_zero_on_sdiff (Finset.range_subset_range.2 hm) (fun i hi => ?_) fun i hi => ?_).symm
  · obtain ⟨-, hge⟩ := Finset.mem_sdiff.1 hi
    rw [BitVec.getLsbD_setWidth, BitVec.getLsbD_of_ge x i (by simpa using hge), Bool.and_false]
    rfl
  · have hlt : i < n := Nat.lt_of_lt_of_le (Finset.mem_range.1 hi) hm
    rw [BitVec.getLsbD_setWidth, decide_eq_true hlt, Bool.true_and]

/-- Settles O38: the tables of a serving state are complete, and zero extension adds no set bits. -/
theorem tablesShowTheirEntries : Obligations.TablesShowTheirEntries := by
  refine fun s hs => ⟨fun x hx => hs.table8_complete.read_eq_builtEntry (n := 8) (by decide) hx,
    fun x hx => hs.table16_complete.read_eq_builtEntry (n := 16) (by decide) hx,
    fun b => ⟨byteIndices_zeroExtended b, ?_⟩, fun h => ⟨halfIndices_zeroExtended h, ?_⟩⟩
  · rw [exec_unguarded (w := b.setWidth 64) hs (by simp [unguardedCounts]), popcount_zeroExtended (by decide)]
  · rw [exec_unguarded (w := h.setWidth 64) hs (by simp [unguardedCounts]), popcount_zeroExtended (by decide)]

/-! The range of the counts -/

theorem popcount_eq_zero_iff (w : Word) : popcount w = 0 ↔ w = 0 := by
  constructor
  · intro h
    by_contra hw
    obtain ⟨i, hbit⟩ := exists_getLsbD_of_ne_zero hw
    have := popcount_pos hbit
    omega
  · rintro rfl
    exact popcount_zero

theorem popcount_eq_64_iff (w : Word) : popcount w = 64 ↔ w = 0xFFFFFFFFFFFFFFFF := by
  have hsum := popcount_not_add w
  calc popcount w = 64 ↔ popcount (~~~w) = 0 := by omega
    _ ↔ ~~~w = 0 := popcount_eq_zero_iff _
    _ ↔ w = 0xFFFFFFFFFFFFFFFF := BitVec.not_eq_comm

/-- A strictly positive word is neither zero nor all ones. -/
theorem popcount_of_positive {w : Word} (hw : 0 < w.toInt) : 1 ≤ popcount w ∧ popcount w ≤ 63 := by
  have hzero : popcount w ≠ 0 := by
    rw [Ne, popcount_eq_zero_iff]
    rintro rfl
    exact absurd hw (by decide)
  have hones : popcount w ≠ 64 := by
    rw [Ne, popcount_eq_64_iff]
    rintro rfl
    exact absurd hw (by decide)
  have hle := popcount_le w
  omega

/-- A response holds every count. -/
theorem toNat_response (w : Word) : (BitVec.ofNat 64 (popcount w)).toNat = popcount w := by
  have hle := popcount_le w
  rw [BitVec.toNat_ofNat]
  omega

theorem response_eq_iff (w r : Word) : BitVec.ofNat 64 (popcount w) = r ↔ popcount w = r.toNat := by
  rw [← BitVec.toNat_inj, toNat_response]

/-- Settles O40: a response that is a count has the range of the counts; the known values are computed. -/
theorem rangeOfCountsAndKnownValues : Obligations.RangeOfCountsAndKnownValues := by
  refine ⟨fun w => ⟨popcount_le w, popcount_eq_zero_iff w, popcount_eq_64_iff w, popcount_not w, popcount_of_positive⟩,
    fun s t w hs i hi h ht => ?_, by decide, by decide⟩
  obtain ⟨rfl, hpositive⟩ := exec_count_answered hs hi h ht
  refine ⟨_, rfl, ?_, (response_eq_iff w 0).trans (popcount_eq_zero_iff w),
    (response_eq_iff w 64).trans (popcount_eq_64_iff w), fun hcode => ?_⟩
  · rw [toNat_response]
    exact popcount_le w
  · rw [toNat_response]
    exact popcount_of_positive (hpositive hcode)

end Sys2Proof.Machine
end

section
/-! PROOF. Fault entry: when DomainViolation is raised in READY, and everything a step that ends in a fault has done
(`60_exceptions.md` R162, R166, R167). -/

namespace Sys2Proof.Machine

/-! DomainViolation -/

/-- The codes of the guarded commands by number (`60_exceptions.md` R162). -/
theorem toNat_mem_guarded_iff (c : Code) : c.toNat ∈ [0, 1, 2] ↔ c.toNat < 3 := by
  simp only [List.mem_cons, List.not_mem_nil, or_false]
  omega

/-- The guarded codes are legal. -/
theorem legalCode_of_guarded : ∀ c : Code, c.toNat < 3 → legalCode c = true := by
  decide

/-- A legal record of DomainViolation names a guarded code and a non-positive operand. -/
theorem RecordLegal.domainViolation_guarded {s : State} (h : RecordLegal s) (hcause : s.cause = .domainViolation) :
    s.fcmd.toNat < 3 ∧ (s.fword = 0 ∨ s.fword.getLsbD 63 = true) := by
  rw [RecordLegal, hcause] at h
  obtain ⟨-, hrecord⟩ := h
  exact hrecord

/-- Without STRICT_DOMAIN a guarded command that is accepted leaves the engine in READY. -/
theorem iterative_lax_stays_ready {e : Bool → Word → State → Host.Outcome State Fault Refusal}
    (he : e ∈ [execPopcntIterWith, execPopcntSparseWith, execPopcntDenseWith]) {w : Word} {s t : State}
    (h : e false w s = .next t) : t.mode = .ready := by
  obtain ⟨code, fn, hguard⟩ := iterative_is_guardedCount he
  rw [hguard] at h
  obtain ⟨hs, ⟨hout, -⟩ | ⟨-, rfl⟩⟩ := guardedCount_next h
  · simp at hout
  · exact hs

/-- In READY a command with a guarded code raises DomainViolation on the operands the guard turns away: the converse of
`exec_faulted`. -/
theorem exec_outsideDomain {i : Instr} {s : State} (hm : s.mode = .ready) (hcode : i.code.toNat < 3)
    (hout : outsideDomain Config.strictDomain i.operand = true) :
    exec i s = .next (raiseFault .domainViolation i.code i.operand s) := by
  cases i with
  | popcntIter w => exact (execPopcntIter_ready hm w).trans (congrArg _ (if_pos hout))
  | popcntSparse w => exact (execPopcntSparse_ready hm w).trans (congrArg _ (if_pos hout))
  | popcntDense w => exact (execPopcntDense_ready hm w).trans (congrArg _ (if_pos hout))
  | popcntBytetab w => simp [Instr.code] at hcode
  | popcntHalftab w => simp [Instr.code] at hcode
  | popcntFold w => simp [Instr.code] at hcode
  | revbits w => simp [Instr.code] at hcode

/-- In READY a packet with a guarded code and an operand the guard turns away is accepted, and its fault is all the step
does. -/
theorem step_outsideDomain {s : State} {p : Packet} {ps : List Packet} (hr : s.rst = false) (hm : s.mode = .ready)
    (hc : s.cmds = p :: ps) (hcode : (packetCode p).toNat < 3)
    (hout : outsideDomain Config.strictDomain (packetOperand p) = true) :
    step s = .next (raiseFault .domainViolation (packetCode p) (packetOperand p) (setCmds ps s)) := by
  obtain ⟨i, hdecode⟩ := (exists_decode_legal_iff p).2 (legalCode_of_guarded _ hcode)
  obtain ⟨hpcode, hpoperand, -⟩ := decode_legal hdecode
  rw [hpcode] at hcode
  rw [hpoperand] at hout
  rw [step_accept hr hm hc, hdecode, hpcode, hpoperand]
  exact exec_outsideDomain hm hcode hout

/-- Settles O42: the record clause of the invariant, `iterative_lax_stays_ready`, and `step_outsideDomain`, whose update
is exactly the record and the phase. -/
theorem nonPositiveOperandRaisesDomainViolation : Obligations.NonPositiveOperandRaisesDomainViolation := by
  refine ⟨fun s h hcause => ?_, fun _ _ _ _ he h => iterative_lax_stays_ready he h, ?_⟩
  · obtain ⟨hcode, hoperand⟩ := h.record.domainViolation_guarded hcause
    exact ⟨(toNat_mem_guarded_iff _).2 hcode, hoperand⟩
  · intro s p ps hr hm hc hcode hoperand
    exact ⟨_, step_outsideDomain hr hm hc ((toNat_mem_guarded_iff _).1 hcode)
      ((outsideDomain_iff _ _).2 ⟨rfl, hoperand⟩), rfl⟩

/-! Any fault -/

/-- Everything a step from READY that ends in FAULTED has done: it accepted the head packet and raised the packet's own
fault, with the packet's own code and operand as the record. -/
theorem step_raises {s t : State} (hr : s.rst = false) (hm : s.mode = .ready) (h : step s = .next t)
    (ht : t.mode = .faulted) :
    ∃ p ps f, s.cmds = p :: ps ∧ t = raiseFault f (packetCode p) (packetOperand p) (setCmds ps s) ∧
      ((f = .illegalCommand ∧ legalCode (packetCode p) = false) ∨
        (f = .domainViolation ∧ (packetCode p).toNat < 3 ∧
          outsideDomain Config.strictDomain (packetOperand p) = true)) := by
  obtain ⟨hr', -⟩ | ⟨-, hm', -⟩ | ⟨-, -, -, rfl⟩ | ⟨-, hm', -⟩ | ⟨-, -, p, ps, hc, hp⟩ := step_next h
  · simp [hr] at hr'
  · simp [hm] at hm'
  · simp [hm] at ht
  · simp [hm] at hm'
  · obtain ⟨i, r, -, -, hresp⟩ | ⟨i, hdecode, hexec, hfault⟩ | ⟨hl, hfault⟩ := hp
    · exact absurd ht (not_faulted_of_respond (s := setCmds ps s) hm hresp)
    · obtain ⟨hpcode, hpoperand, -⟩ := decode_legal hdecode
      obtain ⟨hcode, hout⟩ := exec_faulted hexec ht
      exact ⟨p, ps, _, hc, hfault, .inr ⟨rfl, hpcode ▸ hcode, hpoperand ▸ hout⟩⟩
    · exact ⟨p, ps, _, hc, hfault, .inl ⟨rfl, hl⟩⟩

/-- Settles O43: by `step_raises` the state after the step is `raiseFault` of the head packet, which changes the record
and the phase alone; the packet is its code above its operand. -/
theorem faultsArePrecise : Obligations.FaultsArePrecise := by
  intro s t hr hm h ht
  obtain ⟨p, ps, f, hc, rfl, hf⟩ := step_raises hr hm h ht
  refine ⟨⟨ps, hc.trans (congrArg (· :: ps) (mkPacket_fields p).symm)⟩, rfl, fun _ => rfl, fun _ => rfl, rfl, hr, ?_⟩
  obtain ⟨rfl, hl⟩ | ⟨rfl, hcode, hout⟩ := hf
  · exact .inl ⟨rfl, hl⟩
  · obtain ⟨-, hoperand⟩ := (outsideDomain_iff _ _).1 hout
    exact .inr ⟨rfl, hcode, hoperand⟩

end Sys2Proof.Machine
end

section
/-! PROOF. The invariant of the machine: reset sets it up, and the initialiser's writes, the end of INIT, responses and
faults keep it (`10_state.md` R22 to R34, `41_popcount_table.md` R100). -/

namespace Sys2Proof.Machine

/-! Tables under construction -/

theorem tableBuilt_nil (n : Nat) : TableBuilt n [] 0 := ⟨rfl, fun _ => rfl⟩

/-- Writing the next index of a table with `iter_fn` of it brings the build one entry further. -/
theorem TableBuilt.write {n k : Nat} {t : Memory} (h : TableBuilt n t k) (hn : n ≤ 64) (hk : k < 2 ^ n) :
    TableBuilt n (t.write k (builtEntry k)) (k + 1) := by
  obtain ⟨hwf, hread⟩ := h
  refine ⟨Memory.write_wf hwf k _, fun x => ?_⟩
  rw [Memory.read_write, hread, builtEntry_popcount hn hk]
  by_cases hx : k = x
  · simp [hx]
  · have hlt : x < k + 1 ↔ x < k := by omega
    simp only [hx, hlt, if_false]

/-! Fault records -/

/-- Outside FAULTED a legal record is clear. -/
theorem RecordLegal.clear {s : State} (h : RecordLegal s) (hm : s.mode ≠ .faulted) :
    s.cause = .none ∧ s.fcmd = 0 ∧ s.fword = 0 := by
  unfold RecordLegal at h
  split at h
  · obtain ⟨-, hfcmd, hfword⟩ := h
    exact ⟨‹_›, hfcmd, hfword⟩
  · exact absurd h.1 hm
  · exact absurd h.1 hm

theorem recordLegal_of_clear {s : State} (hm : s.mode ≠ .faulted) (hcause : s.cause = .none) (hfcmd : s.fcmd = 0)
    (hfword : s.fword = 0) : RecordLegal s := by
  rw [RecordLegal, hcause]
  exact ⟨hm, hfcmd, hfword⟩

/-! The initialiser's step in its three phases -/

theorem initialiserStep_table8 {s : State} (hlt : s.initDone < 256) :
    initialiserStep s = writeTable8 s.initDone (builtEntry s.initDone) s := if_pos hlt

theorem initialiserStep_table16 {s : State} (hge : 256 ≤ s.initDone) (hlt : s.initDone < 65792) :
    initialiserStep s = writeTable16 (s.initDone - 256) (builtEntry (s.initDone - 256)) s :=
  (if_neg (Nat.not_lt.2 hge)).trans (if_pos hlt)

theorem initialiserStep_last {s : State} (hge : 65792 ≤ s.initDone) : initialiserStep s = becomeReady s :=
  (if_neg (Nat.not_lt.2 (Nat.le_trans (by decide) hge))).trans (if_neg (Nat.not_lt.2 hge))

/-! What sets up the invariant and what keeps it -/

/-- After a reset nothing is written and the record is clear. -/
theorem takeReset_inv (s : State) : Inv (takeReset s) where
  progress := Nat.zero_le _
  complete h := absurd rfl h
  table8 := by simpa using tableBuilt_nil 8
  table16 := by simpa using tableBuilt_nil 16
  record := ⟨nofun, rfl, rfl⟩

/-- A response has no part in the invariant. -/
theorem respond_inv {s : State} (h : Inv s) (r : Word) : Inv (respond r s) :=
  ⟨h.progress, h.complete, h.table8, h.table16, h.record⟩

/-- A fault leaves the tables alone, so it keeps the invariant as soon as its record is legal. -/
theorem raiseFault_inv {s : State} (h : Inv s) (hm : s.mode ≠ .init) {f : EngineFault} {c : Code} {w : Word}
    (hrecord : RecordLegal (raiseFault f c w s)) : Inv (raiseFault f c w s) :=
  ⟨h.progress, fun _ => h.complete hm, h.table8, h.table16, hrecord⟩

/-- In INIT the initialiser's step keeps the invariant: TABLE8 grows, then TABLE16, then the build is over. -/
theorem initialiserStep_inv {s : State} (h : Inv s) (hm : s.mode = .init) : Inv (initialiserStep s) := by
  have hle : s.initDone ≤ 65792 := h.progress
  have h8 : TableBuilt 8 s.table8 (min s.initDone 256) := h.table8
  have h16 : TableBuilt 16 s.table16 (s.initDone - 256) := h.table16
  by_cases hlt8 : s.initDone < 256
  · rw [min_eq_left hlt8.le] at h8
    have hnone : s.initDone + 1 - 256 = s.initDone - 256 := by omega
    rw [initialiserStep_table8 hlt8]
    refine ⟨Nat.le_trans hlt8 (by decide), fun hne => absurd hm hne, ?_, ?_, h.record⟩
    · rw [writeTable8_initDone, writeTable8_table8, min_eq_left hlt8]
      exact h8.write (by decide) hlt8
    · rw [writeTable8_initDone, writeTable8_table16, hnone]
      exact h16
  by_cases hlt16 : s.initDone < 65792
  · have hge : 256 ≤ s.initDone := Nat.not_lt.1 hlt8
    rw [min_eq_right hge] at h8
    have hindex : s.initDone - 256 < 2 ^ 16 := by omega
    have hnext : s.initDone + 1 - 256 = s.initDone - 256 + 1 := by omega
    rw [initialiserStep_table16 hge hlt16]
    refine ⟨hlt16, fun hne => absurd hm hne, ?_, ?_, h.record⟩
    · rw [writeTable16_initDone, writeTable16_table8, min_eq_right (Nat.le_succ_of_le hge)]
      exact h8
    · rw [writeTable16_initDone, writeTable16_table16, hnext]
      exact h16.write (by decide) hindex
  · obtain ⟨hcause, hfcmd, hfword⟩ := h.record.clear (by simp [hm])
    rw [initialiserStep_last (by omega)]
    exact ⟨hle, fun _ => le_antisymm hle (Nat.not_lt.1 hlt16), h8, h16,
      recordLegal_of_clear (by simp) hcause hfcmd hfword⟩

/-- Every case of `step_next` keeps the invariant; a fault records a guarded code with an operand the guard turns away
(`exec_faulted`), or a reserved code. -/
theorem step_inv {s t : State} (hinv : Inv s) (h : step s = .next t) : Inv t := by
  obtain ⟨-, rfl⟩ | ⟨-, hm, rfl⟩ | ⟨-, -, -, rfl⟩ | ⟨-, -, rfl⟩ | ⟨-, hm, p, ps, -, hp⟩ := step_next h
  · exact takeReset_inv s
  · exact initialiserStep_inv hinv hm
  · exact hinv
  · exact hinv
  · have hinv' : Inv (setCmds ps s) := setCmds_inv hinv ps
    have hni : (setCmds ps s).mode ≠ .init := by simp [hm]
    obtain ⟨i, r, -, -, rfl⟩ | ⟨i, hdecode, hexec, rfl⟩ | ⟨hl, rfl⟩ := hp
    · exact respond_inv hinv' r
    · obtain ⟨hcode, hout⟩ := exec_faulted hexec rfl
      obtain ⟨-, hoperand⟩ := (outsideDomain_iff _ _).1 hout
      obtain ⟨hpcode, hpoperand, -⟩ := decode_legal hdecode
      rw [← hpcode] at hcode
      rw [← hpoperand] at hoperand
      exact raiseFault_inv hinv' hni ⟨rfl, hcode, hoperand⟩
    · exact raiseFault_inv hinv' hni ⟨rfl, hl⟩

/-- Settles O49, by `step_inv`. -/
theorem invariantKeptByEveryStep : Obligations.InvariantKeptByEveryStep := fun _ _ => step_inv

/-- Settles O48: the state after power-on is a reset of itself. -/
theorem invariantAtReset : Obligations.InvariantAtReset := takeReset_inv State.reset

/-! The values of reset -/

/-- Settles O6: the one step is `takeReset`, and its tables list nothing. -/
theorem resetIsHonouredInEveryMode : Obligations.ResetIsHonouredInEveryMode := by
  intro s hr
  obtain ⟨-, -, hinit, -⟩ := statusIsLegal
  exact ⟨takeReset s, step_rst hr, rfl, rfl, rfl, rfl, hinit _ (takeReset_inv s) rfl, rfl, fun _ => rfl, fun _ => rfl,
    rfl, rfl, rfl, rfl⟩

/-- Settles O7: the values of `State.reset`. -/
theorem stateAfterPowerOn : Obligations.StateAfterPowerOn :=
  ⟨rfl, rfl, rfl, rfl, rfl, fun _ => rfl, fun _ => rfl, rfl, rfl, rfl, rfl⟩

end Sys2Proof.Machine
end

section
/-! PROOF. INIT: one table entry a step, then READY, with the two tables that every reset leads to
(`41_popcount_table.md` R100, `70_reset_and_hazards.md` R192, R193). -/

namespace Sys2Proof.Machine

/-! One step of INIT -/

/-- A table after the initialiser's write reads `iter_fn` of the index there, and everywhere else as before. -/
theorem Memory.read_write_builtEntry (m : Memory) (i x : Nat) : (m.write i (builtEntry i)).read x =
    if x = i then some ((iterFn (BitVec.ofNat 64 x)).setWidth 8) else m.read x := by
  rw [Memory.read_write]
  by_cases hx : x = i
  · subst hx
    rw [if_pos rfl, if_pos rfl, builtEntry]
  · rw [if_neg (Ne.symm hx), if_neg hx]

/-- Settles O8: the step is one write, and `Memory.read_write_builtEntry` is what a write does to the reads. -/
theorem initialiserWritesOneEntry : Obligations.InitialiserWritesOneEntry := by
  constructor
  · intro s hr hm hlt
    refine ⟨_, step_init hr hm, ?_⟩
    rw [initialiserStep_table8 hlt]
    exact ⟨Memory.read_write_builtEntry s.table8 s.initDone, rfl⟩
  · intro s hr hm hge hlt
    refine ⟨_, step_init hr hm, ?_⟩
    rw [initialiserStep_table16 hge hlt]
    exact ⟨Memory.read_write_builtEntry s.table16 (s.initDone - 256), rfl⟩

/-- A step of INIT before the last write is done changes the two tables and the progress alone. -/
theorem initialiserStep_writes {s : State} (hlt : s.initDone < 65792) : initialiserStep s =
    { s with
      table8 := (initialiserStep s).table8
      table16 := (initialiserStep s).table16
      initDone := s.initDone + 1 } := by
  by_cases h8 : s.initDone < 256
  · rw [initialiserStep_table8 h8]
    rfl
  · rw [initialiserStep_table16 (by omega) hlt]
    rfl

/-- Settles O9: `initialiserStep_writes` before the end and `initialiserStep_last` at it; STATUS and the record are those
of the invariant, which both keep. -/
theorem initHoldsEveryCommand : Obligations.InitHoldsEveryCommand := by
  intro s hinv hr hm
  obtain ⟨-, -, hinit, hready⟩ := statusIsLegal
  obtain ⟨hcause, hfcmd, hfword⟩ := hinv.record.clear (by simp [hm])
  have hinv' : Inv (initialiserStep s) := initialiserStep_inv hinv hm
  refine ⟨hinit s hinv hm, _, step_init hr hm, ?_⟩
  obtain hlt | heq := Nat.lt_or_eq_of_le hinv.progress
  · have hmode : (initialiserStep s).mode = .init := by rw [initialiserStep_writes hlt, hm]
    have hstatus := hinit _ hinv' hmode
    rw [initialiserStep_writes hlt] at hstatus ⊢
    exact ⟨rfl, rfl, hcause, hfcmd, hfword, fun _ => ⟨hm, hstatus⟩, fun heq => absurd heq hlt.ne⟩
  · rw [initialiserStep_last heq.ge] at hinv' ⊢
    exact ⟨rfl, rfl, hcause, hfcmd, hfword, fun hlt => absurd heq hlt.ne, fun _ => ⟨rfl, hready _ hinv' rfl⟩⟩

/-! The whole of INIT -/

/-- `k` steps of INIT, while entries are left to be written, change the two tables and the progress alone, and keep the
invariant. -/
theorem run_init_writes {s : State} (hinv : Inv s) (hr : s.rst = false) (hm : s.mode = .init) {k : Nat}
    (hk : s.initDone + k ≤ 65792) : ∃ t, run k s = .next t ∧ Inv t ∧
      t = { s with table8 := t.table8, table16 := t.table16, initDone := s.initDone + k } := by
  induction k generalizing s with
  | zero => exact ⟨s, rfl, hinv, rfl⟩
  | succ k ih =>
    have hwrites := initialiserStep_writes (s := s) (by omega)
    have hdone : (initialiserStep s).initDone = s.initDone + 1 := by rw [hwrites]
    obtain ⟨t, hrun, ht, hframe⟩ := ih (initialiserStep_inv hinv hm) (by rw [hwrites, hr]) (by rw [hwrites, hm])
      (by omega)
    refine ⟨t, (run_succ k (step_init hr hm)).trans hrun, ht, ?_⟩
    rw [hframe, hwrites, Nat.add_assoc, Nat.add_comm 1 k]

/-- INIT ends in READY, with the tables complete, nothing else of the state changed, and the invariant kept. -/
theorem run_init {s : State} (hinv : Inv s) (hr : s.rst = false) (hm : s.mode = .init) :
    ∃ t, run (65793 - s.initDone) s = .next t ∧ Inv t ∧
      t = { s with mode := .ready, table8 := t.table8, table16 := t.table16, initDone := 65792 } := by
  have hle : s.initDone ≤ 65792 := hinv.progress
  have hsum : s.initDone + (65792 - s.initDone) = 65792 := by omega
  obtain ⟨t, hrun, ht, hframe⟩ := run_init_writes hinv hr hm hsum.le
  rw [hsum] at hframe
  have htm : t.mode = .init := by rw [hframe, hm]
  have hlast : step t = .next (becomeReady t) := by
    rw [step_init (by rw [hframe, hr]) htm, initialiserStep_last (by rw [hframe])]
  refine ⟨becomeReady t, ?_, step_inv ht hlast, by rw [hframe]; rfl⟩
  rw [show 65793 - s.initDone = 65792 - s.initDone + 1 by omega, run_add _ _ hrun]
  exact run_succ 0 hlast

/-- Settles O11: `run_init_writes` up to the last write, `run_init` to the end. -/
theorem initFinishesFromAnyPoint : Obligations.InitFinishesFromAnyPoint := by
  intro s hinv hr hm
  have hle : s.initDone ≤ 65792 := hinv.progress
  constructor
  · intro k hk
    obtain ⟨t, hrun, ht, hframe⟩ := run_init_writes hinv hr hm (k := k) (by omega)
    exact ⟨t, hrun, by rw [hframe, hm], by rw [hframe], ht⟩
  · obtain ⟨t, hrun, ht, hframe⟩ := run_init hinv hr hm
    have htm : t.mode = .ready := by rw [hframe]
    obtain ⟨hcause, -⟩ := ht.record.clear (by simp [htm])
    exact ⟨t, hrun, htm, hcause, ht⟩

/-! The tables INIT leaves -/

/-- A table reads nothing below the indices it lists. -/
theorem Memory.read_eq_none {m : Memory} {i : Nat} (h : ∀ d ∈ m, i < d.1) : m.read i = none := by
  induction m with
  | nil => rfl
  | cons c m ih =>
    obtain ⟨hc, hm⟩ := List.forall_mem_cons.1 h
    rw [Memory.read_cons, if_neg hc.ne', ih hm]

/-- The canonical form, one listed entry at a time. -/
theorem Memory.wf_cons_iff (c : Host.Cell) (m : Memory) :
    Memory.wf (c :: m) = true ↔ (∀ d ∈ m, c.1 < d.1) ∧ m.wf = true := by
  simp [Memory.wf]

/-- The first index listed in a canonical table is the least index that reads a value. -/
theorem Memory.head_le_of_read {c : Host.Cell} {m : Memory} (h : Memory.wf (c :: m) = true) {i : Nat}
    (hi : Memory.read (c :: m) i ≠ none) : c.1 ≤ i := by
  by_contra! hlt
  obtain ⟨hm, -⟩ := (Memory.wf_cons_iff c m).1 h
  exact hi (Memory.read_eq_none (List.forall_mem_cons.2 ⟨hlt, fun d hd => hlt.trans (hm d hd)⟩))

/-- Canonical tables that read the same are the same. -/
theorem Memory.eq_of_read_eq {m m' : Memory} (h : m.wf = true) (h' : m'.wf = true) (hread : m.read = m'.read) :
    m = m' := by
  induction m generalizing m' with
  | nil =>
    cases m' with
    | nil => rfl
    | cons c' m' => simpa using congrFun hread c'.1
  | cons c m ih =>
    cases m' with
    | nil => simpa using congrFun hread c.1
    | cons c' m' =>
      have hle : c.1 ≤ c'.1 := Memory.head_le_of_read h (by rw [hread]; simp)
      have hle' : c'.1 ≤ c.1 := Memory.head_le_of_read h' (by rw [← hread]; simp)
      have hindex : c.1 = c'.1 := le_antisymm hle hle'
      obtain ⟨hm, hwf⟩ := (Memory.wf_cons_iff c m).1 h
      obtain ⟨hm', hwf'⟩ := (Memory.wf_cons_iff c' m').1 h'
      have hentry : c.2 = c'.2 := by simpa [hindex] using congrFun hread c.1
      have htail : m = m' := by
        refine ih hwf hwf' (funext fun i => ?_)
        by_cases hi : c.1 = i
        · rw [Memory.read_eq_none (hi ▸ hm), Memory.read_eq_none (hi ▸ hindex ▸ hm')]
        · simpa [← hindex, hi] using congrFun hread i
      rw [Prod.ext hindex hentry, htail]

/-- How far a table is built determines it: it is the one the initialiser lists. -/
theorem TableBuilt.eq_builtTable {n k : Nat} {t : Memory} (h : TableBuilt n t k) (hn : n ≤ 64) (hk : k ≤ 2 ^ n) :
    t = builtTable k :=
  have hbuilt : TableBuilt n (builtTable k) k := builtTable_built hn hk
  Memory.eq_of_read_eq h.1 hbuilt.1 (h.read_unique hbuilt)

/-- Settles O10: `run_init` from the state the reset leaves; the invariant has both tables complete, and a complete table
is the one the initialiser lists. -/
theorem resetLeadsToReady : Obligations.ResetLeadsToReady := by
  intro s hr
  obtain ⟨t, hrun, ht, hframe⟩ := run_init (takeReset_inv s) rfl rfl
  have htm : t.mode = .ready := by rw [hframe]
  have h8 : TableBuilt 8 t.table8 256 := ht.table8_complete (by simp [htm])
  have h16 : TableBuilt 16 t.table16 65536 := ht.table16_complete (by simp [htm])
  obtain ⟨hcause, hfcmd, hfword⟩ := ht.record.clear (by simp [htm])
  obtain ⟨-, -, -, hready⟩ := statusIsLegal
  exact ⟨t, (run_succ 65793 (step_rst hr)).trans hrun, htm, hcause, hfcmd, hfword, hready t ht htm, h8, h16,
    h8.eq_builtTable (by decide) (by decide), h16.eq_builtTable (by decide) (by decide), by rw [hframe],
    by rw [hframe, takeReset_rst], by rw [hframe, takeReset_cmds], by rw [hframe, takeReset_responses]⟩

end Sys2Proof.Machine
end

section
/-! PROOF. Frames: what commands and steps change of the phase, the record, the packets and the responses, and what holds
a command (`10_state.md` R21 to R24, `30_encoding.md` R65, R70, `60_exceptions.md` R168, R169). -/

namespace Sys2Proof.Machine

/-! What a step can do, seen from outside -/

/-- A step resets, initialises, leaves everything as it is, or accepts the head packet and answers it or faults: the
cases of `step_next` without the decoding. -/
theorem step_effect {s t : State} (h : step s = .next t) :
    (s.rst = true ∧ t = takeReset s) ∨
    (s.rst = false ∧ s.mode = .init ∧ t = initialiserStep s) ∨
    (s.rst = false ∧ (s.mode = .faulted ∨ s.mode = .ready ∧ s.cmds = []) ∧ t = s) ∨
    (s.rst = false ∧ s.mode = .ready ∧ ∃ p ps, s.cmds = p :: ps ∧
      ((∃ r, t = respond r (setCmds ps s)) ∨
        ∃ f, t = raiseFault f (packetCode p) (packetOperand p) (setCmds ps s))) := by
  obtain hreset | hinit | ⟨hr, hm, hc, ht⟩ | ⟨hr, hm, ht⟩ | ⟨hr, hm, p, ps, hc, hp⟩ := step_next h
  · exact .inl hreset
  · exact .inr (.inl hinit)
  · exact .inr (.inr (.inl ⟨hr, .inr ⟨hm, hc⟩, ht⟩))
  · exact .inr (.inr (.inl ⟨hr, .inl hm, ht⟩))
  · refine .inr (.inr (.inr ⟨hr, hm, p, ps, hc, ?_⟩))
    obtain ⟨i, r, -, -, ht⟩ | ⟨i, -, -, ht⟩ | ⟨-, ht⟩ := hp
    · exact .inl ⟨r, ht⟩
    · exact .inr ⟨_, ht⟩
    · exact .inr ⟨_, ht⟩

/-- The initialiser's step leaves the record and the host's side of the ports alone. -/
theorem initialiserStep_frame (s : State) : (initialiserStep s).cause = s.cause ∧ (initialiserStep s).fcmd = s.fcmd ∧
    (initialiserStep s).fword = s.fword ∧ (initialiserStep s).cmds = s.cmds ∧
    (initialiserStep s).responses = s.responses := by
  obtain ⟨-, hstep⟩ | ⟨-, -, hstep⟩ | ⟨-, hstep⟩ := initialiserStep_cases s
  · rw [hstep]; exact ⟨rfl, rfl, rfl, rfl, rfl⟩
  · rw [hstep]; exact ⟨rfl, rfl, rfl, rfl, rfl⟩
  · rw [hstep]; exact ⟨rfl, rfl, rfl, rfl, rfl⟩

theorem faultCause_ne_none (f : EngineFault) : faultCause f ≠ .none := by
  cases f <;> exact nofun

/-! The phase, the record and the responses over a step -/

/-- Settles O45: of the cases of `step_effect` a fault alone writes the record. -/
theorem recordWrittenAtFaultEntryOnly : Obligations.RecordWrittenAtFaultEntryOnly := by
  intro s t h hr
  obtain ⟨hr', -⟩ | ⟨-, -, rfl⟩ | ⟨-, -, rfl⟩ | ⟨-, hm, p, ps, -, ⟨r, rfl⟩ | ⟨f, rfl⟩⟩ := step_effect h
  · simp [hr] at hr'
  · obtain ⟨hcause, hfcmd, hfword, -, -⟩ := initialiserStep_frame s
    exact .inl ⟨hcause, hfcmd, hfword⟩
  · exact .inl ⟨rfl, rfl, rfl⟩
  · exact .inl ⟨rfl, rfl, rfl⟩
  · exact .inr ⟨hm, rfl, faultCause_ne_none f⟩

/-- Settles O46: the cases of `step_effect`, with the initialiser's step split at its last write. -/
theorem modeTransitions : Obligations.ModeTransitions := by
  intro s t hinv h
  obtain ⟨hr, rfl⟩ | ⟨hr, hm, rfl⟩ | ⟨hr, -, rfl⟩ | ⟨hr, hm, p, ps, -, ⟨r, rfl⟩ | ⟨f, rfl⟩⟩ := step_effect h
  · exact .inl ⟨hr, rfl⟩
  · obtain hlt | heq := Nat.lt_or_eq_of_le hinv.progress
    · exact .inr (.inl ⟨hr, by rw [initialiserStep_writes hlt]⟩)
    · exact .inr (.inr (.inl ⟨hr, hm, heq, by rw [initialiserStep_last heq.ge, becomeReady_mode]⟩))
  · exact .inr (.inl ⟨hr, rfl⟩)
  · exact .inr (.inl ⟨hr, rfl⟩)
  · exact .inr (.inr (.inr ⟨hr, hm, rfl, faultCause_ne_none f⟩))

/-- Settles O59: the first three cases of `step_effect` accept nothing, the fourth answers the head packet or faults. -/
theorem responsesOnlyGrow : Obligations.ResponsesOnlyGrow := by
  intro s t h
  obtain ⟨hr, rfl⟩ | ⟨-, hm, rfl⟩ | ⟨-, hwait, rfl⟩ | ⟨hr, hm, p, ps, hc, ⟨r, rfl⟩ | ⟨f, rfl⟩⟩ := step_effect h
  · exact .inl ⟨rfl, rfl, .inl hr⟩
  · obtain ⟨-, -, -, hcmds, hresponses⟩ := initialiserStep_frame s
    exact .inl ⟨hresponses, hcmds, .inr (.inl (by simp [hm]))⟩
  · refine .inl ⟨rfl, rfl, .inr ?_⟩
    obtain hm | ⟨-, hc⟩ := hwait
    · exact .inl (by simp [hm])
    · exact .inr hc
  · exact .inr (.inr ⟨hr, hm, hm, p, r, hc, rfl⟩)
  · exact .inr (.inl ⟨hr, hm, rfl, rfl, p, hc⟩)

/-! States that do not change -/

/-- A state whose step answers it again is where every run from it stays. -/
theorem run_fixed {s : State} (h : step s = .next s) (k : Nat) : run k s = .next s := by
  induction k with
  | zero => rfl
  | succ k ih => rw [run_succ k h, ih]

/-- Settles O44: the two waits are fixed by a step, and of the cases of `step_effect` a reset alone leaves FAULTED. -/
theorem faultedHoldsUntilReset : Obligations.FaultedHoldsUntilReset := by
  refine ⟨fun s hr hm hc => run_fixed (step_idle hr hm hc), fun s hr hm => run_fixed (step_faulted hr hm), ?_⟩
  intro s t h hm ht
  obtain ⟨hr, rfl⟩ | ⟨-, hm', -⟩ | ⟨-, -, rfl⟩ | ⟨-, hm', -⟩ := step_effect h
  · exact ⟨hr, rfl, rfl, rfl, rfl⟩
  · simp [hm] at hm'
  · exact absurd hm ht
  · simp [hm] at hm'

/-! One command -/

/-- Settles O54: `exec_next`, whose two outcomes are a response and a fault and change nothing else. -/
theorem commandFrame : Obligations.CommandFrame := by
  intro i s t h
  obtain ⟨hm, ⟨r, rfl⟩ | rfl⟩ := exec_next h
  · exact ⟨fun _ => rfl, fun _ => rfl, rfl, rfl, rfl, .inl ⟨hm, rfl, rfl, rfl, r, rfl⟩⟩
  · exact ⟨fun _ => rfl, fun _ => rfl, rfl, rfl, rfl, .inr ⟨rfl, rfl, rfl, rfl, rfl⟩⟩

/-- Whatever a command does, it does in READY alone. -/
theorem exec_eq_whenReady (i : Instr) (s : State) : ∃ o, exec i s = whenReady s o := by
  cases i with
  | popcntIter w => exact ⟨_, rfl⟩
  | popcntSparse w => exact ⟨_, rfl⟩
  | popcntDense w => exact ⟨_, rfl⟩
  | popcntBytetab w => exact ⟨_, rfl⟩
  | popcntHalftab w => exact ⟨_, rfl⟩
  | popcntFold w => exact ⟨_, rfl⟩
  | revbits w => exact ⟨_, rfl⟩

theorem exec_held_in_init (i : Instr) {s : State} (hm : s.mode = .init) : exec i s = .fault .heldInInit := by
  obtain ⟨o, hexec⟩ := exec_eq_whenReady i s
  rw [hexec, whenReady, hm]

theorem exec_held_in_faulted (i : Instr) {s : State} (hm : s.mode = .faulted) : exec i s = .fault .heldInFaulted := by
  obtain ⟨o, hexec⟩ := exec_eq_whenReady i s
  rw [hexec, whenReady, hm]

/-- Settles O52: outside READY a command is held, and no case of `step_effect` but the last touches packets or
responses. -/
theorem commandsHeldOutsideReady : Obligations.CommandsHeldOutsideReady := by
  refine ⟨fun i _ hm => exec_held_in_init i hm, fun i _ hm => exec_held_in_faulted i hm, ?_⟩
  intro s t hm h
  obtain ⟨-, rfl⟩ | ⟨-, -, rfl⟩ | ⟨-, -, rfl⟩ | ⟨-, hm', -⟩ := step_effect h
  · exact ⟨rfl, rfl⟩
  · obtain ⟨-, -, -, hcmds, hresponses⟩ := initialiserStep_frame s
    exact ⟨hcmds, hresponses⟩
  · exact ⟨rfl, rfl⟩
  · exact absurd hm' hm

/-- A packet read back from its own number. -/
theorem tablePacket_toNat (p : Packet) : tablePacket 68 p.toNat = some p := by
  rw [tablePacket, Nat.mod_eq_of_lt p.isLt, if_pos p.isLt, BitVec.ofNat_toNat, BitVec.setWidth_eq]

theorem withFetchWord_toNat (s : State) (p : Packet) :
    s.withFetchWord 68 p.toNat = setCmds (p :: s.cmds) (booted s) := by
  rw [State.withFetchWord, tablePacket_toNat]

/-- Settles O53: `step_accept` with what the packet decodes to. -/
theorem stepRunsThePresentedCommand : Obligations.StepRunsThePresentedCommand := by
  constructor
  · intro s p ps i hr hm hc hdecode
    rw [step_accept hr hm hc, hdecode]
    rfl
  · intro s i
    rw [withFetchWord_toNat, step_accept rfl rfl rfl, decode_encode]
    rfl

/-! Entries with no value -/

/-- A sum has no value when one of its entries has none. -/
theorem sumEntries_eq_none {t : Memory} {is : List Nat} (h : ∃ i ∈ is, t.read i = none) (n : Count) :
    sumEntries t is n = none := by
  induction is generalizing n with
  | nil => simp at h
  | cons j is ih =>
    cases hread : t.read j with
    | none => exact sumEntries_unwritten hread is n
    | some e =>
      have hrest : ∃ i ∈ is, t.read i = none := by simpa [hread] using h
      rw [sumEntries_cons hread, ih hrest]

/-- Settles O24: a sum with no value is refused, and in INIT every command is held. -/
theorem unwrittenEntryHasNoMeaning : Obligations.UnwrittenEntryHasNoMeaning := by
  refine ⟨fun w s hm h => ?_, fun w s hm h => ?_, fun i _ hm => exec_held_in_init i hm⟩
  · rw [execPopcntBytetab_ready hm, tab8Fn, sumEntries_eq_none h, respondSum]
  · rw [execPopcntHalftab_ready hm, tab16Fn, sumEntries_eq_none h, respondSum]

end Sys2Proof.Machine
end

section
/-! PROOF. Runs from states of the invariant: the engine never stops, answers packets in order, and stops accepting them
at the first that faults (`44_properties.md` R149, `60_exceptions.md` R165, R167, `70_reset_and_hazards.md` R198, R199). -/

namespace Sys2Proof.Machine

/-! Progress -/

/-- Every state of the invariant steps; in READY it is serving, so the packet on the port gets a reply. -/
theorem exists_step {s : State} (hinv : Inv s) : ∃ t, step s = .next t := by
  cases hr : s.rst with
  | true => exact ⟨_, step_rst hr⟩
  | false =>
    cases hm : s.mode with
    | init => exact ⟨_, step_init hr hm⟩
    | faulted => exact ⟨_, step_faulted hr hm⟩
    | ready =>
      cases hc : s.cmds with
      | nil => exact ⟨_, step_idle hr hm hc⟩
      | cons p ps => exact ⟨_, step_reply ⟨hm, hr, hinv⟩ hc⟩

theorem exists_run {s : State} (hinv : Inv s) (k : Nat) : ∃ t, run k s = .next t ∧ Inv t := by
  induction k generalizing s with
  | zero => exact ⟨s, rfl, hinv⟩
  | succ k ih =>
    obtain ⟨u, hstep⟩ := exists_step hinv
    obtain ⟨t, hrun, ht⟩ := ih (step_inv hinv hstep)
    exact ⟨t, (run_succ k hstep).trans hrun, ht⟩

/-- Settles O51, by `exists_step` and `exists_run`. -/
theorem engineNeverStops : Obligations.EngineNeverStops :=
  ⟨fun _ => exists_step, fun _ k hinv => exists_run hinv k⟩

/-! A list of packets and its first fault -/

section
variable {strict : Bool} {p : Packet}

theorem repliesUpToFault_cons_response {r : Word} (h : packetReply strict p = .response r) (ps : List Packet) :
    repliesUpToFault strict (p :: ps) = r :: repliesUpToFault strict ps := by
  rw [repliesUpToFault, h]

theorem repliesUpToFault_cons_fault {f : EngineFault} (h : packetReply strict p = .fault f) (ps : List Packet) :
    repliesUpToFault strict (p :: ps) = [] := by
  rw [repliesUpToFault, h]

theorem firstFault_cons_response {r : Word} (h : packetReply strict p = .response r) (ps : List Packet) :
    firstFault strict (p :: ps) = firstFault strict ps := by
  rw [firstFault, h]

theorem firstFault_cons_fault {f : EngineFault} (h : packetReply strict p = .fault f) (ps : List Packet) :
    firstFault strict (p :: ps) = some (p, f, ps) := by
  rw [firstFault, h]

/-- A list without a fault begins with a packet that is answered, and goes on without a fault. -/
theorem firstFault_cons_eq_none {ps : List Packet} (h : firstFault strict (p :: ps) = none) :
    ∃ r, packetReply strict p = .response r ∧ firstFault strict ps = none := by
  cases hreply : packetReply strict p with
  | response r => exact ⟨r, rfl, by rw [← firstFault_cons_response hreply, h]⟩
  | fault f => simp [firstFault_cons_fault hreply] at h

end

/-- A list without a fault gets one response for each packet. -/
theorem length_repliesUpToFault {strict : Bool} {ps : List Packet} (h : firstFault strict ps = none) :
    (repliesUpToFault strict ps).length = ps.length := by
  induction ps with
  | nil => rfl
  | cons p ps ih =>
    obtain ⟨r, hreply, hrest⟩ := firstFault_cons_eq_none h
    rw [repliesUpToFault_cons_response hreply, List.length_cons, List.length_cons, ih hrest]

/-- The first fault cuts a list into packets that are answered, the one that faults, and those behind it. -/
theorem firstFault_eq_some {strict : Bool} {cs : List Packet} {p : Packet} {f : EngineFault} {rest : List Packet}
    (h : firstFault strict cs = some (p, f, rest)) :
    ∃ ps, cs = ps ++ p :: rest ∧ firstFault strict ps = none ∧ packetReply strict p = .fault f ∧
      repliesUpToFault strict cs = repliesUpToFault strict ps := by
  induction cs with
  | nil => simp [firstFault] at h
  | cons c cs ih =>
    cases hreply : packetReply strict c with
    | response r =>
      obtain ⟨ps, rfl, hnone, hfault, hsame⟩ := ih (by rw [← firstFault_cons_response hreply, h])
      exact ⟨c :: ps, rfl, by rw [firstFault_cons_response hreply, hnone], hfault,
        by rw [repliesUpToFault_cons_response hreply, repliesUpToFault_cons_response hreply, hsame]⟩
    | fault g =>
      rw [firstFault_cons_fault hreply] at h
      obtain ⟨rfl, rfl, rfl⟩ : c = p ∧ g = f ∧ cs = rest := by simpa using h
      exact ⟨[], rfl, rfl, hreply, repliesUpToFault_cons_fault hreply cs⟩

/-! The packets before the first fault -/

/-- The state in which the packets `ps` at the head of the port have been answered and `qs` are left. -/
def answered (ps qs : List Packet) (s : State) : State :=
  { s with cmds := qs, responses := s.responses ++ repliesUpToFault Config.strictDomain ps }

/-- A response has no part in serving. -/
theorem respond_serving {s : State} (hs : Serving s) (r : Word) : Serving (respond r s) := by
  obtain ⟨hm, hr, hinv⟩ := hs
  exact ⟨hm, hr, respond_inv hinv r⟩

/-- Answering packets has no part in serving. -/
theorem answered_serving {s : State} (hs : Serving s) (ps qs : List Packet) : Serving (answered ps qs s) := by
  obtain ⟨hm, hr, hinv⟩ := hs
  exact ⟨hm, hr, hinv.progress, hinv.complete, hinv.table8, hinv.table16, hinv.record⟩

/-- As many steps as packets none of which faults answer them in order, and leave those behind them on the port. -/
theorem run_answers {ps qs : List Packet} {s : State} (hs : Serving s) (hc : s.cmds = ps ++ qs)
    (hnone : firstFault Config.strictDomain ps = none) : run ps.length s = .next (answered ps qs s) := by
  induction ps generalizing s with
  | nil =>
    obtain rfl : s.cmds = qs := hc
    simp [answered, repliesUpToFault]
  | cons p ps ih =>
    obtain ⟨r, hreply, hrest⟩ := firstFault_cons_eq_none hnone
    have hstep : step s = .next (setCmds (ps ++ qs) (respond r s)) := by
      rw [step_reply (ps := ps ++ qs) hs hc, hreply, afterReply]
    have hs' : Serving (setCmds (ps ++ qs) (respond r s)) := setCmds_serving (respond_serving hs r) _
    rw [List.length_cons, run_succ _ hstep, ih hs' rfl hrest]
    simp [answered, setCmds, respond, repliesUpToFault_cons_response hreply]

/-- Settles O57: `run_answers` with nothing behind; a serving state's record is clear. -/
theorem runAnswersInOrder : Obligations.RunAnswersInOrder := by
  intro s hs hnone
  have ⟨hm, _, hinv⟩ := hs
  obtain ⟨hcause, -⟩ := hinv.record.clear (by simp [hm])
  exact ⟨run_answers hs (List.append_nil _).symm hnone, length_repliesUpToFault hnone, hm, hcause, rfl⟩

/-- Settles O58: `run_answers` up to the packet that faults, `step_reply` on it, and then FAULTED holds. -/
theorem runStopsAtFirstFault : Obligations.RunStopsAtFirstFault := by
  intro s p f rest hs hfirst k
  obtain ⟨ps, hc, hnone, hreply, hsame⟩ := firstFault_eq_some hfirst
  have hs' : Serving (answered ps (p :: rest) s) := answered_serving hs ps (p :: rest)
  have hfault : step (answered ps (p :: rest) s) =
      .next (setCmds rest (raiseFault f (packetCode p) (packetOperand p) (answered ps (p :: rest) s))) := by
    rw [step_reply hs' rfl, hreply, afterReply]
  rw [hsame, length_repliesUpToFault hnone, Nat.add_assoc, run_add _ _ (run_answers hs hc hnone), Nat.add_comm 1 k,
    run_succ k hfault]
  obtain ⟨-, hr, -⟩ := hs
  refine run_fixed (step_faulted ?_ ?_) k
  · exact hr
  · rfl

end Sys2Proof.Machine
end

section
/-! PROOF. The six datapath functions agree on every word (`44_properties.md` R140). -/

namespace Sys2Proof.Machine

/-- Settles O36: every one of the six is the count of the word in 7 bits. -/
theorem sixStrategiesAgree : Obligations.SixStrategiesAgree := by
  intro t8 t16 w h8 h16
  have hiter : iterFn w = BitVec.ofNat 7 (popcount w) := eq_ofNat_of_counts iterFn_toNat w
  rw [hiter]
  exact ⟨toNat_ofNat_popcount w, eq_ofNat_of_counts sparseFn_toNat w, eq_ofNat_of_counts denseFn_toNat w,
    tab8Fn_built h8 w, tab16Fn_built h16 w, eq_ofNat_of_counts foldFn_toNat w⟩

end Sys2Proof.Machine
end

section
/-! PROOF. Text and packets read back: the line of a command assembles to it, and the packets of the spec's vectors decode
as its table says (`30_encoding.md` R66, `95_test_vectors.md` section 2). -/

namespace Sys2Proof.Machine

/-- Settles O4: a legal packet is its command's own, and a reserved one decodes to its fields. -/
theorem specPacketsDecode : Obligations.SpecPacketsDecode :=
  ⟨decode_encode (.popcntIter 0xB5), decode_encode (.popcntSparse 0xB5), decode_encode (.popcntDense 0x7FFFFFFFFFFFFF0F),
    decode_encode (.popcntBytetab 0x0123456789ABCDEF), decode_encode (.popcntHalftab 0x0123456789ABCDEF),
    decode_encode (.popcntFold 0xAAAAAAAAAAAAAAAA), decode_encode (.revbits 0x8000000000000001),
    decode_reserved (by decide), decode_reserved (by decide), decode_reserved (by decide), decode_reserved (by decide)⟩

/-! The digits of an operand -/

theorem hexDigit_hexChar : ∀ d : BitVec 4, hexDigit (hexChar d) = some d.toNat := by decide

/-- A digit is neither the space that separates nor the semicolon that starts a comment. -/
theorem hexChar_plain : ∀ d : BitVec 4, hexChar d ≠ ' ' ∧ hexChar d ≠ ';' := by decide

/-- The `k` lowest hexadecimal digits of a word, the most significant first. -/
def lowDigits (w : Word) (k : Nat) : List Char := (List.range k).reverse.map fun j => hexChar (w.extractLsb' (4 * j) 4)

theorem lowDigits_succ (w : Word) (k : Nat) :
    lowDigits w (k + 1) = hexChar (w.extractLsb' (4 * k) 4) :: lowDigits w k := by
  simp [lowDigits, List.range_succ]

theorem hexText_eq_lowDigits (w : Word) : hexText w = lowDigits w 16 := rfl

/-- Reading the `k` lowest digits appends them to the number read before. -/
theorem numeral_lowDigits (w : Word) (k n : Nat) :
    numeral 16 hexDigit (lowDigits w k) n = some (n * 16 ^ k + w.toNat % 16 ^ k) := by
  induction k generalizing n with
  | zero => simp [lowDigits, numeral, Nat.mod_one]
  | succ k ih =>
    have hdigit : (w.extractLsb' (4 * k) 4).toNat = w.toNat / 16 ^ k % 16 := by
      rw [slice_toNat, pow_mul]
      rfl
    rw [lowDigits_succ, numeral, hexDigit_hexChar]
    simp only [ih, hdigit, Nat.mod_pow_succ, Option.some.injEq]
    ring

/-- Sixteen digits read back as the word they were written from. -/
theorem parseOperand_hexText (w : Word) : parseOperand ('0' :: 'x' :: hexText w) = some w := by
  have hvalue : numeral 16 hexDigit (hexText w) 0 = some w.toNat := by
    have hlt : w.toNat < 16 ^ 16 := w.isLt
    rw [hexText_eq_lowDigits, numeral_lowDigits, Nat.mod_eq_of_lt hlt, Nat.zero_mul, Nat.zero_add]
  have hlen : (hexText w).length = 16 := rfl
  simp [parseOperand, hlen, hvalue]

/-! The line of a command -/

theorem mnemonicInstr_mnemonicOf (i : Instr) : mnemonicInstr (mnemonicOf i) i.operand = some i := by
  cases i <;> rfl

/-- A mnemonic holds neither a space nor a semicolon. -/
theorem mnemonicOf_plain (i : Instr) : ∀ c ∈ mnemonicOf i, c ≠ ' ' ∧ c ≠ ';' := by
  cases i <;> simp [mnemonicOf]

theorem hexText_plain (w : Word) : ∀ c ∈ hexText w, c ≠ ' ' ∧ c ≠ ';' :=
  List.forall_mem_map.2 fun _ _ => hexChar_plain _

/-- No character of a rendered line starts a comment. -/
theorem renderLine_no_comment (i : Instr) : ∀ c ∈ renderLine i, (c != ';') = true := by
  intro c hc
  simp only [renderLine, List.mem_append, List.mem_cons] at hc
  obtain hc | rfl | rfl | rfl | hc := hc
  · simpa using (mnemonicOf_plain i c hc).2
  · decide
  · decide
  · decide
  · simpa using (hexText_plain _ c hc).2

/-- A rendered line ends in its operand's last digit. -/
theorem getLast_renderLine (i : Instr) (h : renderLine i ≠ []) :
    (renderLine i).getLast h = hexChar (i.operand.extractLsb' 0 4) := by
  simp [renderLine, hexText]

/-- A rendered line has no comment and does not end in a space, so all of it is text. -/
theorem lineText_renderLine (i : Instr) : lineText (renderLine i) = renderLine i := by
  rw [lineText, List.takeWhile_eq_self_iff.2 (renderLine_no_comment i)]
  refine List.rdropWhile_eq_self_iff.2 fun h => ?_
  rw [getLast_renderLine]
  simpa [notSpace] using (hexChar_plain _).1

/-- The mnemonic runs up to the space, and the operand follows it. -/
theorem parseCommand_renderLine (i : Instr) : parseCommand (renderLine i) = some i := by
  have hplain : ∀ c ∈ mnemonicOf i, notSpace c = true := fun c hc => by
    simpa [notSpace] using (mnemonicOf_plain i c hc).1
  have hmnemonic : (renderLine i).takeWhile notSpace = mnemonicOf i := by
    rw [renderLine, List.takeWhile_append_of_pos hplain]
    simp [notSpace]
  have hrest : (renderLine i).dropWhile notSpace = ' ' :: '0' :: 'x' :: hexText i.operand := by
    rw [renderLine, List.dropWhile_append_of_pos hplain]
    rfl
  have hoperand : ('0' :: 'x' :: hexText i.operand).dropWhile (fun c => !notSpace c) =
    '0' :: 'x' :: hexText i.operand := rfl
  simp only [parseCommand, hrest, hoperand, parseOperand_hexText, hmnemonic, mnemonicInstr_mnemonicOf]

/-- A line whose text parses as a command is that command, whatever else the text may be. -/
theorem assembleLine_of_parseCommand {line : List Char} {i : Instr} (h : parseCommand (lineText line) = some i) :
    assembleLine line = .command i := by
  cases htext : lineText line with
  | nil =>
    rw [htext] at h
    cases h
  | cons c l =>
    rw [htext] at h
    simp only [assembleLine, htext, h]

/-- Settles O5: the whole line is text, and the text parses as the command. -/
theorem assemblingALineGivesItsCommand : Obligations.AssemblingALineGivesItsCommand := by
  intro i
  exact assembleLine_of_parseCommand (by rw [lineText_renderLine, parseCommand_renderLine])

end Sys2Proof.Machine
end
